-- ==== Sys2Proof/Word.lean ====
section
/-! DEFINITION. The machine's word types (00_scope.md R6, R8): 64-bit lanes and registers, 8-bit bytes, all unsigned, bit 0 the
least significant. -/

namespace Sys2Proof

/-- A 64-bit register, lane or command word (R6, R8, R35). -/
abbrev Word := BitVec 64

/-- A message or bus byte (R40, R67). -/
abbrev Byte := BitVec 8

/-- The 25 state lanes; index i is lane A[i] = A[i mod 5, i div 5] (R14). -/
abbrev Lanes := Vector Word 25

/-- The 17 words of the block buffer B (R15). -/
abbrev BlockBuf := Vector Word 17

/-- The 4 words of the digest latch D (R16). -/
abbrev Digest := Vector Word 4

/-- One rate-sized block as a 1088-bit value, bit k of weight 2^k (R9, R15, R60). -/
abbrev Block := BitVec 1088

/-- The flat 1600-bit state, flat bit k of weight 2^k (R8, R62). -/
abbrev Flat := BitVec 1600

end Sys2Proof
end

