-- ==== Sys2Proof/Config.lean ====
section
/-! DEFINITION. What an instance of the block fixes: the source's constants (00_scope.md R6), the two open parameters BASE and LAT
(R7), and the free values, which the spec leaves open. A free value is an opaque constant with no body, applied to a counter of
State, so that nothing can be proved of its value (log entries 2 to 8). -/

namespace Sys2Proof.Config

/-- Number of rounds, nr = 12 + 2ℓ with ℓ = 6 (R6). -/
def rounds : Nat := 24

/-- Rate r in bits (R6). -/
def rate : Nat := 1088

/-- Length of the register window in bytes (R34). -/
def windowSize : Nat := 0x400

/-- Open parameter: which 1 KiB slot of the bus the platform gives the window (R7, U3). -/
opaque baseSlot : Nat

/-- BASE, the bus address of the window's first byte, a multiple of 0x400 (R7, R34). -/
def base : Nat := baseSlot * windowSize

/-- Open parameter: engine clock cycles from acceptance to completion, less one, by opcode (R7, U2). -/
opaque latencyBeyondOne : BitVec 8 → Nat

/-- LAT, a function of the opcode with values of at least 1 (R7, R124). -/
def lat (op : BitVec 8) : Nat := latencyBeyondOne op + 1

/-- Free value: how many inputs the machine takes within the given number of engine clock cycles (R124: a finite number, on
which no rule depends). First argument: the draw. -/
opaque inputsWithin : Nat → Nat → Nat

/-- Free value: what a Host read of A[i] or B[j] returns while BUSY = 1 (R120, U1). Argument: the draw. -/
opaque busyRead : Nat → Word

/-- Free value: what the LFSR register holds after a command that uses a round constant (R27, R83, U11). Argument: the draw. -/
opaque lfsrLeft : Nat → BitVec 8

/-- Free value behind roundCount. Argument: the draw. -/
opaque roundCountDraw : Nat → Nat

/-- The round counter while a permutation runs: some count below 24 that no access observes (R29). -/
def roundCount (draw : Nat) : BitVec 5 := BitVec.ofNat 5 (roundCountDraw draw % rounds)

end Sys2Proof.Config
end

