-- ==== Sys2Proof/Machine/State.lean ====
section
/-! DEFINITION. The state of the machine as plain data (10_state.md R13 to R33), the inputs it takes from outside, the reasons it
can stop, and the state after reset (70_reset_and_hazards.md R116). -/

namespace Sys2Proof.Machine

/-- The command errors of 60_exceptions.md R98. -/
inductive CmdError where
  | illegal | badarg | sequence | busy
  deriving DecidableEq, Repr

/-- One input of the machine, in the one total order of R43: an access the Host makes, or an action of the platform on the reset
input. `off` is the bus address minus BASE, so it is negative below the window (R34). -/
inductive Event where
  /-- A bus read of `width` bytes; MemRead(off, 8) when width is 8 (R12, R36). -/
  | read (width : Nat) (off : Int)
  /-- A bus write of `width` bytes; MemWrite(off, 8, value) when width is 8 (R12, R36). -/
  | write (width : Nat) (off : Int) (value : Word)
  /-- The Host's WAIT loop (R55): read STATUS, and again while bit 0 is 1. One read is one step. -/
  | wait
  /-- The platform asserts reset (R116). -/
  | assertReset
  /-- The platform releases reset (R116). -/
  | releaseReset
  deriving DecidableEq, Repr

/-- What a Host access returns to the Host. -/
inductive BusResponse where
  /-- The 64-bit value of a read (R38). -/
  | data (value : Word)
  /-- A write that the bus completed normally, a dropped or rejected command among them (R100, R101). -/
  | written
  /-- The bus error response BusError(off) (R102). -/
  | busError (off : Int)
  deriving DecidableEq, Repr

/-- Why the machine stops with a fault. No rule of the spec stops the machine; these two belong to states that no run from reset
reaches. -/
inductive Fault where
  /-- Raised by the Engine's step when BUSY = 1 and PEND holds no word (R28 gives PEND a value whenever BUSY = 1). Safe. -/
  | busyWithoutCommand
  /-- Raised by the Engine's step when BUSY = 1 and PEND holds a word that decodes to no command (R118 accepts only words that
  decode). Safe. -/
  | pendingWordIllegal
  deriving DecidableEq, Repr

/-- Why the machine refuses to go on. -/
inductive Refusal where
  /-- The command has no meaning yet. Raised only by exec's arms; none raises it. Safe. -/
  | notModelled (mnemonic : String)
  /-- A Host access while reset is asserted: raised by the Host's step; "this spec gives it no meaning" (R116, U4). Safe. -/
  | accessDuringReset
  /-- An access outside the window: raised by the Host's step; "this block does not decode such accesses" (R48, U5). Safe. -/
  | accessOutsideWindow (off : Int)
  deriving DecidableEq, Repr

/-- Everything the spec gives the machine (R33), the two agents' inputs and results, and two fields of the model's own. -/
structure State where
  /-- State lanes A[0..24] (R14). -/
  a : Lanes
  /-- Block buffer B[0..16] (R15). -/
  b : BlockBuf
  /-- Digest latch D[0..3] (R16). -/
  d : Digest
  /-- RCOUT (R17). -/
  rcout : Word
  /-- BLKCNT (R18). -/
  blkcnt : Word
  /-- STATUS.BUSY (R21). -/
  busy : Bool
  /-- STATUS.DONE (R22). -/
  done : Bool
  /-- STATUS.DVALID, the sponge phase: true is SQUEEZED (R23). -/
  dvalid : Bool
  /-- STATUS.ERR (R24). -/
  err : BitVec 4
  /-- CTRL.IE (R25). -/
  ie : Bool
  /-- The hidden round-constant LFSR (R27). -/
  lfsr : BitVec 8
  /-- PEND, the accepted command word, present while BUSY = 1 (R28). -/
  pend : Option Word
  /-- The hidden round counter, present while a permutation runs (R29). -/
  roundCtr : Option (BitVec 5)
  /-- The reset input is asserted (R116). -/
  resetLine : Bool
  /-- The inputs still to come, the next one first (R13, R43, R123). -/
  events : List Event
  /-- What the Host's accesses have returned, the latest first (R12, R102). -/
  responses : List BusResponse
  /-- The model's own: how many further inputs the machine takes before the pending completion (R124, log entry 3). -/
  delay : Nat
  /-- The model's own: how many free values have been drawn (log entry 2). -/
  draws : Nat
  deriving DecidableEq, Repr

/-- The machine right after reset (R33, R116): every register 0, LFSR 0x01, no command pending. No input is left and none has been
answered (log entries 9 and 13); the model's own counters start at 0 (log entries 2 and 3). -/
def State.reset : State where
  a := Vector.replicate 25 0
  b := Vector.replicate 17 0
  d := Vector.replicate 4 0
  rcout := 0
  blkcnt := 0
  busy := false
  done := false
  dvalid := false
  err := 0
  ie := false
  lfsr := 0x01
  pend := none
  roundCtr := none
  resetLine := false
  events := []
  responses := []
  delay := 0
  draws := 0

end Sys2Proof.Machine
end

