-- ==== Sys2Proof/Machine/LaneMapper.lean ====
section
/-! DEFINITION. The lane operators (00_scope.md R10, R11), the lane mapper and the sponge's two views of the state
(41_lane_mapper.md R62 to R66), and the byte orders (41_lane_mapper.md R67, 20_memory.md R40 to R42). -/

namespace Sys2Proof.Machine

/-- ROL64(v, n): bit i moves to bit (i + n) mod 64 (R11). -/
def rol64 (v : Word) (n : Nat) : Word := (v <<< (n % 64)) ||| (v >>> (64 - n % 64))

/-- The x coordinate of lane i = x + 5y (R14, R62). -/
def laneX (i : Fin 25) : Fin 5 := Fin.ofNat 5 i.val

/-- The y coordinate of lane i = x + 5y (R14, R62). -/
def laneY (i : Fin 25) : Fin 5 := Fin.ofNat 5 (i.val / 5)

/-- The lane number x + 5y of lane (x, y) (R14). -/
def laneIndex (x y : Fin 5) : Fin 25 := ⟨x.val + 5 * y.val, by omega⟩

/-- A[x,y] (R12, R14). -/
def laneAt (A : Lanes) (x y : Fin 5) : Word := A[(laneIndex x y).val]

/-- The lane array whose lane (x, y) is f x y. -/
def lanesOf (f : Fin 5 → Fin 5 → Word) : Lanes := Vector.ofFn fun i => f (laneX i) (laneY i)

/-- The value Σ ws[i] · 2^(64·i) in m bits: the first word lowest (R15, R63, R66). -/
def joinWords (m : Nat) (ws : List Word) : BitVec m := ws.foldr (fun w rest => (rest <<< 64) ||| w.setWidth m) 0

/-- flat(A) := Σ A[x,y] · 2^(64·(5y+x)) (R63). -/
def flat (A : Lanes) : Flat := joinWords 1600 A.toList

/-- lanes(S)[x,y] := S[64·(5y+x) + 63 : 64·(5y+x)] (R63). -/
def lanes (S : Flat) : Lanes := Vector.ofFn fun i => S.extractLsb' (64 * i.val) 64

/-- The block buffer read as a 1088-bit value: bit k is B[k div 64][k mod 64] (R15, R60). -/
def blockOf (B : BlockBuf) : Block := joinWords 1088 B.toList

/-- xorblock(A, P): P is XORed into lanes 0 to 16, the capacity lanes keep their value (R65). -/
def xorblock (A : Lanes) (P : Block) : Lanes :=
  Vector.ofFn fun i => if i.val < 17 then A[i.val] ^^^ P.extractLsb' (64 * i.val) 64 else A[i.val]

/-- The squeeze's four lanes, A[0..3], as FINAL latches them into D (R66, R93, R94). -/
def squeeze (A : Lanes) : Digest := Vector.ofFn fun k : Fin 4 => A[k.val]

/-- digest := D[0] + 2^64·D[1] + 2^128·D[2] + 2^192·D[3] (R66, R95). -/
def digestValue (D : Digest) : BitVec 256 := joinWords 256 D.toList

/-- Byte k of the 8-byte access that carries v: bits [8k+7 : 8k], little-endian (R40). -/
def busByte (v : Word) (k : Nat) : Byte := v.extractLsb' (8 * k) 8

/-- The word whose byte t is the t-th of the given bytes, little-endian; bytes beyond the list are 0 (R40, R41, R55's le64). -/
def le64 (bytes : List Byte) : Word := (bytes.take 8).foldr (fun w rest => (rest <<< 8) ||| w.setWidth 64) 0

/-- Bytes to message bits: M[8t + b] is bit b of byte t (R67). -/
def messageBits (m : List Byte) : List Bool := m.flatMap fun t => (List.range 8).map t.getLsbD

/-- Digest byte k, k in [0,32): D[k div 8][8(k mod 8)+7 : 8(k mod 8)] (R42). -/
def digestByte (D : Digest) (k : Fin 32) : Byte := busByte (D[k.val / 8]'(by omega)) (k.val % 8)

/-- One lowercase hexadecimal digit (R42). -/
def hexDigit (v : BitVec 4) : Char := ("0123456789abcdef".toList).getD v.toNat '0'

/-- A digest printed: byte 0 first, two lowercase digits a byte, high nibble first (R42). -/
def digestHex (D : Digest) : List Char :=
  (List.finRange 32).flatMap fun k =>
    [hexDigit ((digestByte D k).extractLsb' 4 4), hexDigit ((digestByte D k).extractLsb' 0 4)]

end Sys2Proof.Machine
end

