-- ==== Sys2Proof/Machine/Padding.lean ====
section
/-! DEFINITION. The padding rule pad10*1 on whole messages, the block sequence, and the hardware's block-boundary aligner
(40_padding.md R56 to R61). A message is a list of bits, index 0 first (00_scope.md R9). -/

namespace Sys2Proof.Machine

/-- j = (−n − 2) mod 1088, the count of 0 bits in the padding (R56). -/
def padZeros (n : Nat) : Nat := ((-(n : Int) - 2) % 1088).toNat

/-- pad(n) := 1 || 0^j || 1 (R56). -/
def padding (n : Nat) : List Bool := true :: (List.replicate (padZeros n) false ++ [true])

/-- P = M || pad(|M|) (R56). -/
def padded (M : List Bool) : List Bool := M ++ padding M.length

/-- A bit string as a value: bit i is s[i], 0 beyond its end (R9). -/
def bitsValue : List Bool → Nat
  | [] => 0
  | bit :: rest => bit.toNat + 2 * bitsValue rest

/-- The 1088-bit value of a bit string of at most 1088 bits (R9). -/
def blockOfBits (bits : List Bool) : Block := BitVec.ofNat 1088 (bitsValue bits)

/-- The n blocks P_0, P_1, …, P_(n−1) of a bit string: P_i[k] = P[1088·i + k] (R58). -/
def blocksOf : Nat → List Bool → List Block
  | 0, _ => []
  | n + 1, P => blockOfBits (P.take 1088) :: blocksOf n (P.drop 1088)

/-- The block sequence of a message: its padded string in |P| / 1088 blocks (R58). -/
def paddedBlocks (M : List Bool) : List Block := blocksOf ((padded M).length / 1088) (padded M)

/-- align(B, nb): the last one or two blocks, from the message bits B[0, nb) (R60). The rule takes nb at most 1087; a larger nb is
rejected before FINAL uses it (R53). -/
def align (B : Block) (nb : Nat) : List Block :=
  let T := B &&& BitVec.ofNat 1088 (2 ^ nb - 1)
  if nb ≤ 1086 then [T ^^^ BitVec.twoPow 1088 nb ^^^ BitVec.twoPow 1088 1087]
  else [T ^^^ BitVec.twoPow 1088 1087, BitVec.twoPow 1088 1087]

end Sys2Proof.Machine
end

