-- ==== Sys2Proof/Syntax.lean ====
section
/-! DEFINITION. The twelve commands of the engine, one constructor per row of spec/opcode_table.json (30_encoding.md R51).
An operand keeps the raw value of its field (R50), so that a word whose operand is out of range is still an instruction: the
Engine decodes it first and then rejects it with BADARG (R52, R53). -/

namespace Sys2Proof

/-- A command of KF1600-SPONGE/cmd-v1 (R49 to R51). -/
inductive Instr where
  | nop                          -- 0x00, R90
  | init                         -- 0x01, R91
  | absorb                       -- 0x02, R92
  | final (nbits : BitVec 11)    -- 0x03, R93; NBITS = bits 26:16
  | permute                      -- 0x10, R89
  | round (ridx : BitVec 5)      -- 0x11, R88; RIDX = bits 12:8
  | theta                        -- 0x12, R75
  | rho                          -- 0x13, R76
  | pi                           -- 0x14, R77
  | chi                          -- 0x15, R78
  | iota (ridx : BitVec 5)       -- 0x16, R79; RIDX = bits 12:8
  | rcgen (ridx : BitVec 5)      -- 0x17, R84; RIDX = bits 12:8
  deriving DecidableEq, Repr

end Sys2Proof
end

