-- ==== Sys2Proof/WellFormed.lean ====
section
/-! DEFINITION. Which commands an assembler writes (30_encoding.md R55: "An assembler refuses an operand out of range"): a round
index of 0 to 23 and a final bit length of 0 to 1087. The Engine's own range check at the CMD write is Machine/Operands.lean's
argCheck (R53). -/

namespace Sys2Proof

/-- The operands of a command lie in the ranges of R53 and R55. -/
def Instr.wellFormed : Instr → Bool
  | .nop => true
  | .init => true
  | .absorb => true
  | .final nbits => decide (nbits.toNat ≤ 1087)
  | .permute => true
  | .round ridx => decide (ridx.toNat ≤ 23)
  | .theta => true
  | .rho => true
  | .pi => true
  | .chi => true
  | .iota ridx => decide (ridx.toNat ≤ 23)
  | .rcgen ridx => decide (ridx.toNat ≤ 23)

/-- The command is one an assembler writes. -/
abbrev Instr.WellFormed (i : Instr) : Prop := i.wellFormed = true

end Sys2Proof
end

