-- ==== Sys2Proof/Decode.lean ====
section
/-! DEFINITION. The command encoding (30_encoding.md R49 to R54): the opcode map, the decoder over every 64-bit word, and the
encoder. A word that matches no row is refused by name; the Engine records both names as ILLEGAL (R52, R54). -/

namespace Sys2Proof

/-- Why a word is no command (R54). -/
inductive DecodeError where
  /-- OP is none of the twelve opcodes. Safe: the word is ILLEGAL. -/
  | undefinedOpcode
  /-- OP is defined, and a reserved bit or a field the opcode does not use holds a 1. Safe: the word is ILLEGAL. -/
  | unusedBitSet
  deriving DecidableEq, Repr

/-- OP = v[7:0] (R50). -/
def opField (v : Word) : BitVec 8 := v.extractLsb' 0 8

/-- RIDX = v[12:8] (R50). -/
def ridxField (v : Word) : BitVec 5 := v.extractLsb' 8 5

/-- NBITS = v[26:16] (R50). -/
def nbitsField (v : Word) : BitVec 11 := v.extractLsb' 16 11

/-- A row of the opcode map: the match, the mask, and how the row's operands are read from the word (R51). -/
structure OpRow where
  matchBits : Word
  mask : Word
  build : Word → Instr

/-- The row accepts the word: (v ∧ mask) = match (R52). -/
def OpRow.accepts (r : OpRow) (v : Word) : Bool := v &&& r.mask == r.matchBits

/-- The mask of a command without operands (R51). -/
def maskNone : Word := 0xFFFF_FFFF_FFFF_FFFF
/-- The mask of FINAL (R51). -/
def maskNbits : Word := 0xFFFF_FFFF_F800_FFFF
/-- The mask of ROUND, IOTA and RCGEN (R51). -/
def maskRidx : Word := 0xFFFF_FFFF_FFFF_E0FF

/-- The opcode map of R51, row by row. -/
def opmap : List OpRow :=
  [ ⟨0x00, maskNone, fun _ => .nop⟩,
    ⟨0x01, maskNone, fun _ => .init⟩,
    ⟨0x02, maskNone, fun _ => .absorb⟩,
    ⟨0x03, maskNbits, fun v => .final (nbitsField v)⟩,
    ⟨0x10, maskNone, fun _ => .permute⟩,
    ⟨0x11, maskRidx, fun v => .round (ridxField v)⟩,
    ⟨0x12, maskNone, fun _ => .theta⟩,
    ⟨0x13, maskNone, fun _ => .rho⟩,
    ⟨0x14, maskNone, fun _ => .pi⟩,
    ⟨0x15, maskNone, fun _ => .chi⟩,
    ⟨0x16, maskRidx, fun v => .iota (ridxField v)⟩,
    ⟨0x17, maskRidx, fun v => .rcgen (ridxField v)⟩ ]

/-- Decode a command word: the row that accepts it, or the name of the reason there is none (R52, R54). -/
def decode (v : Word) : Except DecodeError Instr :=
  match opmap.find? (·.accepts v) with
  | some r => .ok (r.build v)
  | none =>
    if opmap.any (fun r => opField r.matchBits == opField v) then .error .unusedBitSet
    else .error .undefinedOpcode

/-- The opcode of a command (R51). -/
def Instr.opcode : Instr → BitVec 8
  | .nop => 0x00
  | .init => 0x01
  | .absorb => 0x02
  | .final _ => 0x03
  | .permute => 0x10
  | .round _ => 0x11
  | .theta => 0x12
  | .rho => 0x13
  | .pi => 0x14
  | .chi => 0x15
  | .iota _ => 0x16
  | .rcgen _ => 0x17

/-- RIDX in its place, bits 12:8 (R49). -/
def placeRidx (ridx : BitVec 5) : Word := ridx.setWidth 64 <<< 8

/-- NBITS in its place, bits 26:16 (R49). -/
def placeNbits (nbits : BitVec 11) : Word := nbits.setWidth 64 <<< 16

/-- The operand fields of a command in their places, every other bit 0 (R49, R51). -/
def Instr.operandBits : Instr → Word
  | .final nbits => placeNbits nbits
  | .round ridx => placeRidx ridx
  | .iota ridx => placeRidx ridx
  | .rcgen ridx => placeRidx ridx
  | .nop => 0
  | .init => 0
  | .absorb => 0
  | .permute => 0
  | .theta => 0
  | .rho => 0
  | .pi => 0
  | .chi => 0

/-- The one 64-bit word of a command (R49, R55). -/
def encode (i : Instr) : Word := i.opcode.setWidth 64 ||| i.operandBits

/-- The command the decoder reads from an instruction of nbits bits w, numbered as spec/opcode_table.json numbers them; the bits
above nbits are 0. A command is one 64-bit word (R49), so a longer one is none. -/
def decodeTableWord (nbits w : Nat) : Option Instr :=
  if nbits ≤ 64 then (decode (BitVec.ofNat 64 (w % 2 ^ nbits))).toOption else none

end Sys2Proof
end

