-- ==== Sys2Proof/Machine/Flags.lean ====
section
/-! DEFINITION. The STATUS and CTRL registers: how their words are composed of the fields of State, what a Host write of them does,
the error code field, and the interrupt line (10_state.md R20 to R26, 60_exceptions.md R98, R106, R108). -/

namespace Sys2Proof.Machine

/-- The code STATUS.ERR holds for an error (R98). -/
def CmdError.code : CmdError → BitVec 4
  | .illegal => 1
  | .badarg => 2
  | .sequence => 3
  | .busy => 4

/-- A one-bit field at its place in a register word (R8). -/
def flagBit (f : Bool) (place : Nat) : Word := if f then 1#64 <<< place else 0

/-- The STATUS word a Host reads: BUSY 0, DONE 1, DVALID 2, ERR 11:8, every other bit 0 (R20). -/
def State.status (s : State) : Word :=
  flagBit s.busy 0 ||| flagBit s.done 1 ||| flagBit s.dvalid 2 ||| (s.err.setWidth 64 <<< 8)

/-- The CTRL word a Host reads: IE at bit 0, every other bit 0 (R25). -/
def State.ctrl (s : State) : Word := flagBit s.ie 0

/-- The output line irq = CTRL.IE ∧ STATUS.DONE (R26, R108). -/
def State.irq (s : State) : Bool := s.ie && s.done

/-- A Host write of v to STATUS: bit 1 clears DONE, bit 15 clears ERR, nothing else changes (R20, R106). -/
def writeStatus (v : Word) (s : State) : State :=
  { s with
    done := if v.getLsbD 1 then false else s.done
    err := if v.getLsbD 15 then 0 else s.err }

/-- A Host write of v to CTRL: IE takes bit 0, reserved bits are ignored (R25). -/
def writeCtrl (v : Word) (s : State) : State := { s with ie := v.getLsbD 0 }

/-- Record an error: ERR takes the code if it is 0 and keeps its value otherwise (R24). -/
def recordError (e : CmdError) (s : State) : State :=
  { s with err := if s.err = 0 then e.code else s.err }

end Sys2Proof.Machine
end

