-- ==== Sys2Proof/Machine/Operands.lean ====
section
/-! DEFINITION. The operands of a command and the checks made before any write (30_encoding.md R53, 60_exceptions.md R99, R104). -/

namespace Sys2Proof.Machine

/-- The range check on a round index: at most 23 (R53). -/
def ridxCheck (ridx : BitVec 5) : Option CmdError := if ridx.toNat ≤ 23 then none else some .badarg

/-- The range check on the length of the final partial block: at most 1087 (R53). -/
def nbitsCheck (nbits : BitVec 11) : Option CmdError := if nbits.toNat ≤ 1087 then none else some .badarg

/-- The operand range check of a command (R53). -/
def argCheck : Instr → Option CmdError
  | .final nbits => nbitsCheck nbits
  | .round ridx => ridxCheck ridx
  | .iota ridx => ridxCheck ridx
  | .rcgen ridx => ridxCheck ridx
  | .nop => none
  | .init => none
  | .absorb => none
  | .permute => none
  | .theta => none
  | .rho => none
  | .pi => none
  | .chi => none

/-- The command needs phase ABSORBING (R23, R32, R92, R93). -/
def needsAbsorbing : Instr → Bool
  | .absorb => true
  | .final _ => true
  | .nop => false
  | .init => false
  | .permute => false
  | .round _ => false
  | .theta => false
  | .rho => false
  | .pi => false
  | .chi => false
  | .iota _ => false
  | .rcgen _ => false

/-- The phase check of a command: SEQUENCE for ABSORB and FINAL in phase SQUEEZED (R23, R118). -/
def phaseCheck (i : Instr) (s : State) : Option CmdError :=
  if needsAbsorbing i && s.dvalid then some .sequence else none

/-- The checks of a decoded command in their order: operand ranges, then phase (R53, R99, R104). -/
def admission (i : Instr) (s : State) : Option CmdError :=
  match argCheck i with
  | some e => some e
  | none => phaseCheck i s

/-- The command evaluates Keccak-f, so the round counter counts while it runs (R29, R83). -/
def runsPermutation : Instr → Bool
  | .absorb => true
  | .final _ => true
  | .permute => true
  | .nop => false
  | .init => false
  | .round _ => false
  | .theta => false
  | .rho => false
  | .pi => false
  | .chi => false
  | .iota _ => false
  | .rcgen _ => false

end Sys2Proof.Machine
end

