-- ==== Sys2Proof/Machine/Ops.lean ====
section
/-! DEFINITION. The shared operations of the command lifecycle (70_reset_and_hazards.md R116, R118, R119; 60_exceptions.md R99 to
R101): rejecting a command, dropping a write while busy, accepting a command, completing it. The engine takes no trap and returns
from none (60_exceptions.md R105, R106), so a command error's entry is `rejectCommand` and its acknowledgement is writeStatus. -/

namespace Sys2Proof.Machine

/-- A rejected command's whole effect: ERR takes the code if it is 0, and DONE becomes 1 (R100). -/
def rejectCommand (e : CmdError) (s : State) : State := { recordError e s with done := true }

/-- The BUSY drop's whole effect: ERR takes code 4 if it is 0 (R101). -/
def busyDrop (s : State) : State := recordError .busy s

/-- Accept a command: PEND holds its word and BUSY becomes 1; DONE keeps its value (R118). How many inputs fall before the
completion is drawn for the opcode's LAT (R124, log entry 3); the round counter runs for a permutation (R29, log entry 7). -/
def accept (i : Instr) (s : State) : State :=
  { s with
    pend := some (encode i)
    busy := true
    roundCtr := if runsPermutation i then some (Config.roundCount s.draws) else none
    delay := Config.inputsWithin s.draws (Config.lat i.opcode)
    draws := s.draws + 1 }

/-- Complete a command whose writes have been made: PEND and the round counter hold nothing, BUSY becomes 0 and DONE 1 (R118, R119). -/
def complete (s : State) : State := { s with pend := none, roundCtr := none, busy := false, done := true }

/-- The lifecycle of a command with the given writes (R118): its checks; then, while BUSY = 0, its acceptance at the CMD write, and
while BUSY = 1, its completion, all writes at one instant (R119). -/
def runCommand (i : Instr) (writes : State → State) (s : State) : Host.Outcome State Fault Refusal :=
  match admission i s with
  | some e => .next (rejectCommand e s)
  | none => .next (if s.busy then complete (writes s) else accept i s)

/-- What a command that uses a round constant leaves in the LFSR: a free value (R27, R83, U11). -/
def stirLfsr (s : State) : State := { s with lfsr := Config.lfsrLeft s.draws, draws := s.draws + 1 }

/-- The Host gets a response to its access. -/
def respond (r : BusResponse) (s : State) : State := { s with responses := r :: s.responses }

/-- The platform asserts reset: every register takes its reset value and a command in flight is abandoned (R116). What the Host has
received, the inputs still to come and the draw counter are not the engine's and stay. -/
def assertReset (s : State) : State :=
  { State.reset with
    resetLine := true, events := s.events, responses := s.responses, draws := s.draws }

/-- The platform releases reset: the registers hold their reset values (R116). Releasing a reset that is not asserted changes
nothing (log entry 12). -/
def releaseReset (s : State) : State := if s.resetLine then { assertReset s with resetLine := false } else s

end Sys2Proof.Machine
end

