-- ==== Sys2Proof/Machine/RoundConstants.lean ====
section
/-! DEFINITION. The round-constant generator and the command RCGEN (43_round_constants.md R80 to R84). -/

namespace Sys2Proof.Machine

/-- One LFSR step: step(R) := ((R << 1) ∧ 0xFF) ⊕ (R[7] · 0x71) (R80). -/
def lfsrStep (R : BitVec 8) : BitVec 8 := (R <<< 1) ^^^ (if R.getLsbD 7 then 0x71 else 0)

/-- The LFSR after n steps from R. -/
def lfsrRun (R : BitVec 8) : Nat → BitVec 8
  | 0 => R
  | n + 1 => lfsrStep (lfsrRun R n)

/-- rc(t) (R81). -/
def rc (t : Nat) : Bool := if t % 255 = 0 then true else (lfsrRun 0x01 (t % 255)).getLsbD 0

/-- RC[ir] := Σ over j in [0,7) of rc(j + 7·ir) · 2^(2^j − 1) (R82). The rule gives it for ir below 24; a larger ir is rejected
before any command uses it (R53). -/
def roundConstant (ir : Nat) : Word :=
  (List.range 7).foldl (fun k j => k + (if rc (j + 7 * ir) then BitVec.ofNat 64 (2 ^ (2 ^ j - 1)) else 0)) 0

/-- The LFSR form of the generator for one round: the constant k, and the LFSR after its seven steps (R83). -/
def generateConstant (lfsr : BitVec 8) : Word × BitVec 8 :=
  (List.range 7).foldl
    (fun g j => (g.1 ^^^ (if g.2.getLsbD 0 then BitVec.ofNat 64 (2 ^ (2 ^ j - 1)) else 0), lfsrStep g.2)) (0, lfsr)

/-- The LFSR at the start of round ir of a Keccak-f evaluation, from 0x01 (R83). -/
def generatorLfsr : Nat → BitVec 8
  | 0 => 0x01
  | ir + 1 => (generateConstant (generatorLfsr ir)).2

/-- RCGEN: RCOUT <- RC[ridx] (R84). -/
def execRcgen (ridx : BitVec 5) (s : State) : Host.Outcome State Fault Refusal :=
  runCommand (.rcgen ridx) (fun s => stirLfsr { s with rcout := roundConstant ridx.toNat }) s

end Sys2Proof.Machine
end

