-- ==== Sys2Proof/Machine/StepMappings.lean ====
section
/-! DEFINITION. The step mappings θ, ρ, π, χ and ι, each a pure function of the lane array, and the five commands that apply one of
them (42_step_mappings.md R68 to R79). Coordinates are Fin 5, whose arithmetic is modulo 5 (00_scope.md R10). -/

namespace Sys2Proof.Machine

/-- C[x], the parity of column x (R68). -/
def columnParity (A : Lanes) (x : Fin 5) : Word :=
  laneAt A x 0 ^^^ laneAt A x 1 ^^^ laneAt A x 2 ^^^ laneAt A x 3 ^^^ laneAt A x 4

/-- D[x] := C[(x−1) mod 5] ⊕ ROL64(C[(x+1) mod 5], 1) (R68). -/
def thetaEffect (A : Lanes) (x : Fin 5) : Word := columnParity A (x - 1) ^^^ rol64 (columnParity A (x + 1)) 1

/-- θ: A'[x,y] := A[x,y] ⊕ D[x] (R68; two parities, conflict C1). -/
def theta (A : Lanes) : Lanes := lanesOf fun x y => laneAt A x y ^^^ thetaEffect A x

/-- One step t of the traversal that fills the rho offsets: off[x][y] := ((t+1)(t+2)/2) mod 64, then (x,y) := (y, (2x+3y) mod 5)
(R69). -/
def rhoTraverse (st : (Fin 5 × Fin 5) × Vector Nat 25) (t : Nat) : (Fin 5 × Fin 5) × Vector Nat 25 :=
  ((st.1.2, 2 * st.1.1 + 3 * st.1.2), st.2.set (laneIndex st.1.1 st.1.2).val ((t + 1) * (t + 2) / 2 % 64))

/-- The rho offsets by lane number: 0 for lane (0,0), the traversal from (1,0) for the others (R69). -/
def rhoOffsets : Vector Nat 25 := ((List.range 24).foldl rhoTraverse ((1, 0), Vector.replicate 25 0)).2

/-- ρ: ρ(A)[x,y] := ROL64(A[x,y], off[x][y]) (R70; a left rotation, conflict C5). -/
def rho (A : Lanes) : Lanes := lanesOf fun x y => rol64 (laneAt A x y) rhoOffsets[(laneIndex x y).val]

/-- π: π(A)[x,y] := A[(x + 3y) mod 5, x] (R71). -/
def pi (A : Lanes) : Lanes := lanesOf fun x y => laneAt A (x + 3 * y) x

/-- χ: χ(A)[x,y] := A[x,y] ⊕ (¬A[(x+1) mod 5, y] ∧ A[(x+2) mod 5, y]) (R72). -/
def chi (A : Lanes) : Lanes := lanesOf fun x y => laneAt A x y ^^^ (~~~(laneAt A (x + 1) y) &&& laneAt A (x + 2) y)

/-- ι: RC[ir] is XORed into lane (0,0), every other lane keeps its value (R73). -/
def iota (A : Lanes) (ir : Nat) : Lanes := A.set 0 (A[0] ^^^ roundConstant ir)

/-- THETA: A <- θ(A) (R75). -/
def execTheta (s : State) : Host.Outcome State Fault Refusal :=
  runCommand .theta (fun s => { s with a := theta s.a }) s

/-- RHO: A <- ρ(A) (R76). -/
def execRho (s : State) : Host.Outcome State Fault Refusal :=
  runCommand .rho (fun s => { s with a := rho s.a }) s

/-- PI: A <- π(A) (R77). -/
def execPi (s : State) : Host.Outcome State Fault Refusal :=
  runCommand .pi (fun s => { s with a := pi s.a }) s

/-- CHI: A <- χ(A) (R78). -/
def execChi (s : State) : Host.Outcome State Fault Refusal :=
  runCommand .chi (fun s => { s with a := chi s.a }) s

/-- IOTA: A[0] <- A[0] ⊕ RC[ridx] (R79). -/
def execIota (ridx : BitVec 5) (s : State) : Host.Outcome State Fault Refusal :=
  runCommand (.iota ridx) (fun s => stirLfsr { s with a := iota s.a ridx.toNat }) s

end Sys2Proof.Machine
end

