-- ==== Sys2Proof/Machine/Permutation.lean ====
section
/-! DEFINITION. The round function, the permutation Keccak-f[1600], and the commands ROUND and PERMUTE (44_permutation.md R85 to R89). -/

namespace Sys2Proof.Machine

/-- Rnd(A, ir) := ι(χ(π(ρ(θ(A)))), ir) (R85). -/
def rnd (A : Lanes) (ir : Nat) : Lanes := iota (chi (pi (rho (theta A)))) ir

/-- KeccakF(A): the rounds 0 to 23 in increasing order (R86). Irreducible, so that no unification runs 24 rounds unasked. -/
@[irreducible] def keccakF (A : Lanes) : Lanes := (List.range Config.rounds).foldl rnd A

/-- ROUND: A <- Rnd(A, ridx) (R88). -/
def execRound (ridx : BitVec 5) (s : State) : Host.Outcome State Fault Refusal :=
  runCommand (.round ridx) (fun s => stirLfsr { s with a := rnd s.a ridx.toNat }) s

/-- PERMUTE: A <- KeccakF(A) (R89). -/
def execPermute (s : State) : Host.Outcome State Fault Refusal :=
  runCommand .permute (fun s => stirLfsr { s with a := keccakF s.a }) s

end Sys2Proof.Machine
end

