-- ==== Sys2Proof/Machine/Sponge.lean ====
section
/-! DEFINITION. The sponge controller: the commands NOP, INIT, ABSORB and FINAL, and the hash function they compute
(45_sponge.md R90 to R97). -/

namespace Sys2Proof.Machine

/-- NOP: no operation (R90). -/
def execNop (s : State) : Host.Outcome State Fault Refusal :=
  runCommand .nop (fun s => s) s

/-- INIT: A, B, D, DVALID, BLKCNT, RCOUT and ERR become 0 (R91). -/
def execInit (s : State) : Host.Outcome State Fault Refusal :=
  runCommand .init (fun s =>
    { s with
      a := Vector.replicate 25 0, b := Vector.replicate 17 0, d := Vector.replicate 4 0,
      dvalid := false, blkcnt := 0, rcout := 0, err := 0 }) s

/-- Absorb one block: A <- KeccakF(xorblock(A, P)), BLKCNT <- (BLKCNT + 1) mod 2^64 (R92, R93). -/
def absorbBlock (s : State) (P : Block) : State :=
  { s with a := keccakF (xorblock s.a P), blkcnt := s.blkcnt + 1 }

/-- ABSORB: absorb the full block in B (R92). -/
def execAbsorb (s : State) : Host.Outcome State Fault Refusal :=
  runCommand .absorb (fun s => stirLfsr (absorbBlock s (blockOf s.b))) s

/-- The squeeze of FINAL: D[k] <- A[k], and the phase becomes SQUEEZED (R93, R94). -/
def latchDigest (s : State) : State := { s with d := squeeze s.a, dvalid := true }

/-- FINAL: pad the last partial block, absorb the one or two blocks, squeeze (R93). -/
def execFinal (nbits : BitVec 11) (s : State) : Host.Outcome State Fault Refusal :=
  runCommand (.final nbits)
    (fun s => stirLfsr (latchDigest ((align (blockOf s.b) nbits.toNat).foldl absorbBlock s))) s

/-- One absorption on the flat state: S := flat(KeccakF(lanes(S ⊕ (P || 0^512)))) (R95). -/
def absorbFlat (S : Flat) (P : Block) : Flat := flat (keccakF (lanes (S ^^^ P.setWidth 1600)))

/-- H(M), the digest of a message bit string of any length (R95). -/
def spongeHash (M : List Bool) : BitVec 256 := ((paddedBlocks M).foldl absorbFlat 0).extractLsb' 0 256

/-- FIPS 202 SHA3-256 through the same engine: R95 on the message with the two bits 0, 1 behind it, which the Host adds (R97). -/
def sha3Hash (M : List Bool) : BitVec 256 := spongeHash (M ++ [false, true])

end Sys2Proof.Machine
end

