-- ==== Sys2Proof/Machine/Dispatch.lean ====
section
/-! DEFINITION. exec: one arm per command, each one call of the command's meaning (30_encoding.md R51). exec is the Engine's handling
of a decoded command: at the CMD write its checks and its acceptance (BUSY = 0), later its completion (BUSY = 1); see
Machine/Ops.lean runCommand (70_reset_and_hazards.md R118). -/

namespace Sys2Proof.Machine

def exec (i : Instr) (s : State) : Host.Outcome State Fault Refusal :=
  match i with
  | .nop => Sys2Proof.Machine.execNop s
  | .init => Sys2Proof.Machine.execInit s
  | .absorb => Sys2Proof.Machine.execAbsorb s
  | .final nbits => Sys2Proof.Machine.execFinal nbits s
  | .permute => Sys2Proof.Machine.execPermute s
  | .round ridx => Sys2Proof.Machine.execRound ridx s
  | .theta => Sys2Proof.Machine.execTheta s
  | .rho => Sys2Proof.Machine.execRho s
  | .pi => Sys2Proof.Machine.execPi s
  | .chi => Sys2Proof.Machine.execChi s
  | .iota ridx => Sys2Proof.Machine.execIota ridx s
  | .rcgen ridx => Sys2Proof.Machine.execRcgen ridx s

end Sys2Proof.Machine
end

