-- ==== Sys2Proof/Machine/Bus.lean ====
section
/-! DEFINITION. The register window and the two agents' steps: the register map and its permissions (20_memory.md R34 to R39), the
Host's accesses (60_exceptions.md R101, R102, R104; 70_reset_and_hazards.md R118, R120), the Engine's completion (R118, R119), and
which agent moves next (10_state.md R13, R123, R124). -/

namespace Sys2Proof.Machine

/-- The registers of the window (R35). -/
inductive Reg where
  | a (i : Fin 25) | b (j : Fin 17) | d (k : Fin 4) | cmd | status | ctrl | blkcnt | rcout
  deriving DecidableEq, Repr

/-- The window offset of a register (R35). -/
def Reg.offset : Reg → Nat
  | .a i => 0x000 + 8 * i.val
  | .b j => 0x100 + 8 * j.val
  | .d k => 0x200 + 8 * k.val
  | .cmd => 0x300
  | .status => 0x308
  | .ctrl => 0x310
  | .blkcnt => 0x318
  | .rcout => 0x320

/-- The register at a window offset; none at a reserved or misaligned one (R35, R36). -/
def regAt (off : Nat) : Option Reg :=
  if off % 8 ≠ 0 then none
  else if h : off / 8 < 25 then some (.a ⟨off / 8, h⟩)
  else if off / 8 < 32 then none
  else if h : off / 8 - 32 < 17 then some (.b ⟨off / 8 - 32, h⟩)
  else if off / 8 < 64 then none
  else if h : off / 8 - 64 < 4 then some (.d ⟨off / 8 - 64, h⟩)
  else if off = 0x300 then some .cmd
  else if off = 0x308 then some .status
  else if off = 0x310 then some .ctrl
  else if off = 0x318 then some .blkcnt
  else if off = 0x320 then some .rcout
  else none

/-- The register has access R or R/W (R35, R37). -/
def Reg.readable : Reg → Bool
  | .cmd => false
  | .a _ | .b _ | .d _ | .status | .ctrl | .blkcnt | .rcout => true

/-- The register has access W or R/W (R35, R37). -/
def Reg.writable : Reg → Bool
  | .d _ | .blkcnt | .rcout => false
  | .a _ | .b _ | .cmd | .status | .ctrl => true

/-- The window offset of a bus address: the address less BASE (R34). -/
def offsetOf (address : Nat) : Int := (address : Int) - (Config.base : Int)

/-- The offset lies in the window [0x000, 0x400) (R34). -/
def inWindow (off : Int) : Bool := decide (0 ≤ off) && decide (off < Config.windowSize)

/-- The register an 8-byte access of the given width and offset reaches: none for a width other than 8, a misaligned offset or a
reserved offset (R36, R37). -/
def target (width : Nat) (off : Int) : Option Reg := if width = 8 then regAt off.toNat else none

/-- The value a read of a register returns, where the rules give one: D reads 0 while DVALID = 0 (R16). CMD cannot be read (R19). -/
def readValue (s : State) : Reg → Word
  | .a i => s.a[i.val]
  | .b j => s.b[j.val]
  | .d k => if s.dvalid then s.d[k.val] else 0
  | .cmd => 0
  | .status => s.status
  | .ctrl => s.ctrl
  | .blkcnt => s.blkcnt
  | .rcout => s.rcout

/-- A read of the register returns any value while BUSY = 1 (R120). -/
def Reg.arbitraryWhileBusy : Reg → Bool
  | .a _ | .b _ => true
  | .d _ | .cmd | .status | .ctrl | .blkcnt | .rcout => false

/-- A permitted Host read: the register's value, or a free value for A and B while BUSY = 1 (R39, R120, U1). -/
def readReg (r : Reg) (s : State) : State :=
  if s.busy && r.arbitraryWhileBusy then respond (.data (Config.busyRead s.draws)) { s with draws := s.draws + 1 }
  else respond (.data (readValue s r)) s

/-- A Host write of v to CMD: dropped while BUSY = 1, else decoded; an illegal word is rejected, a command is handled by exec
(R52, R101, R104, R118). -/
def submit (v : Word) (s : State) : Host.Outcome State Fault Refusal :=
  if s.busy then .next (busyDrop s)
  else
    match decode v with
    | .error _ => .next (rejectCommand .illegal s)
    | .ok i => exec i s

/-- A permitted Host write of v to a register (R39, R101, R120). D, BLKCNT and RCOUT are never written by the Host (R37). -/
def writeReg (r : Reg) (v : Word) (s : State) : Host.Outcome State Fault Refusal :=
  match r with
  | .a i => .next (if s.busy then busyDrop s else { s with a := s.a.set i.val v })
  | .b j => .next (if s.busy then busyDrop s else { s with b := s.b.set j.val v })
  | .cmd => submit v s
  | .status => .next (writeStatus v s)
  | .ctrl => .next (writeCtrl v s)
  | .d _ | .blkcnt | .rcout => .next s

/-- A Host bus read: refused during reset or outside the window, a bus error where R36 or R37 forbids it, else the register's read
(R34, R36, R37, R102, R104). -/
def hostRead (width : Nat) (off : Int) (s : State) : Host.Outcome State Fault Refusal :=
  if s.resetLine then .refused .accessDuringReset
  else if !inWindow off then .refused (.accessOutsideWindow off)
  else
    match target width off with
    | none => .next (respond (.busError off) s)
    | some r => .next (if r.readable then readReg r s else respond (.busError off) s)

/-- A Host bus write: refused during reset or outside the window, a bus error where R36 or R37 forbids it, else the register's
write, which the bus completes normally (R34, R36, R37, R101, R102, R104). -/
def hostWrite (width : Nat) (off : Int) (v : Word) (s : State) : Host.Outcome State Fault Refusal :=
  if s.resetLine then .refused .accessDuringReset
  else if !inWindow off then .refused (.accessOutsideWindow off)
  else
    match target width off with
    | none => .next (respond (.busError off) s)
    | some r => if r.writable then writeReg r v (respond .written s) else .next (respond (.busError off) s)

/-- One turn of the WAIT loop: read STATUS, and go round again while bit 0 is 1 (R55). -/
def hostWait (s : State) : Host.Outcome State Fault Refusal :=
  if s.status.getLsbD 0 then hostRead 8 0x308 { s with events := .wait :: s.events } else hostRead 8 0x308 s

/-- One input's effect (R13, R116). -/
def takeEvent (e : Event) (s : State) : Host.Outcome State Fault Refusal :=
  match e with
  | .read width off => hostRead width off s
  | .write width off value => hostWrite width off value s
  | .wait => hostWait s
  | .assertReset => .next (assertReset s)
  | .releaseReset => .next (releaseReset s)

/-- The input leaves the list, and the pending completion comes one input nearer (R43, R124). -/
def dropEvent (s : State) : State := { s with events := s.events.tail, delay := s.delay - 1 }

/-- The Engine's step "complete": perform the command PEND holds (R118, R119). -/
def engineStep (s : State) : Host.Outcome State Fault Refusal :=
  match s.pend with
  | none => .fault .busyWithoutCommand
  | some v =>
    match decode v with
    | .error _ => .fault .pendingWordIllegal
    | .ok i => exec i s

/-- Who takes the next step. -/
inductive Mover where
  | engine | outside (e : Event) | nobody
  deriving DecidableEq, Repr

/-- The Engine completes an accepted command once its delay has run out or no input is left (R123, R124); else the next input is
taken; with neither, the engine is idle and keeps its state (R114). -/
def nextMover (s : State) : Mover :=
  match s.events with
  | [] => if s.busy then .engine else .nobody
  | e :: _ => if s.busy && s.delay == 0 then .engine else .outside e

/-- A Host write of the command word v to CMD as the very next input of an idle engine. -/
def placeCommand (v : Word) (s : State) : State :=
  { s with
    busy := false, pend := none, roundCtr := none, resetLine := false
    events := .write 8 0x300 v :: s.events }

end Sys2Proof.Machine
end

