-- ==== Sys2Proof/Machine/Step.lean ====
section
/-! DEFINITION. One step of the machine: the Engine's completion, or one input (10_state.md R13), and how a word is placed where the
engine takes its next command from, a Host write to CMD (10_state.md R31, 20_memory.md R46; log entry 13). -/

namespace Sys2Proof.Machine

/-- One step of one agent (R13, R43). -/
def step (s : State) : Host.Outcome State Fault Refusal :=
  match nextMover s with
  | .engine => engineStep s
  | .outside e => takeEvent e (dropEvent s)
  | .nobody => .next s

/-- s with the instruction of nbits bits w, numbered as spec/opcode_table.json numbers them, as the value of the Host's next write
to CMD, and the engine idle so that the very next step decodes and runs it. -/
def State.withFetchWord (s : State) (nbits w : Nat) : State := placeCommand (BitVec.ofNat 64 (w % 2 ^ nbits)) s

end Sys2Proof.Machine
end

