-- ==== Sys2Proof/Machine/HostProgram.lean ====
section
/-! DEFINITION. The Host's assembler: statements and pseudo-instructions, and the bus accesses they stand for (30_encoding.md R55). A
Host program is a list of inputs; each access's result comes back in State.responses. -/

namespace Sys2Proof.Machine

/-- A statement of a Host program (R55). -/
inductive Stmt where
  /-- A command by its mnemonic and operand. -/
  | command (i : Instr)
  /-- `WR reg, imm`. -/
  | wr (r : Reg) (imm : Word)
  /-- `RD reg -> name`; what the Host names the result is the Host's own. -/
  | rd (r : Reg)
  deriving DecidableEq, Repr

/-- MemRead(offset(reg), 8) (R12, R55). -/
def readOf (r : Reg) : Event := .read 8 (r.offset : Int)

/-- MemWrite(offset(reg), 8, v) (R12, R55). -/
def writeOf (r : Reg) (v : Word) : Event := .write 8 (r.offset : Int) v

/-- Assemble a statement; an operand out of range is refused (R55). -/
def assemble : Stmt → Option Event
  | .command i => if i.wellFormed then some (writeOf .cmd (encode i)) else none
  | .wr r imm => some (writeOf r imm)
  | .rd r => some (readOf r)

/-- Expansions one after another; nothing when one of them is refused. -/
def inOrder : List (Option (List Event)) → Option (List Event)
  | [] => some []
  | p :: rest => p.bind fun es => (inOrder rest).map (es ++ ·)

/-- WAIT (R55). -/
def pseudoWait : List Event := [.wait]

/-- EXEC c: the command statement, then WAIT; refused where the assembler refuses the statement (R55). -/
def pseudoExec (i : Instr) : Option (List Event) := (assemble (.command i)).map (· :: pseudoWait)

/-- CLRDONE (R55, R106). -/
def pseudoClrDone : List Event := [writeOf .status 0x2]

/-- CLRERR (R55, R106). -/
def pseudoClrErr : List Event := [writeOf .status 0x8000]

/-- The word j of a block of at most 136 message bytes, followed by zero bytes (R41, R55). -/
def blockWord (m : List Byte) (j : Nat) : Word := le64 (m.drop (8 * j))

/-- 17 Host writes of B, word j from f. -/
def writeBlock (f : Fin 17 → Word) : List Event := (List.finRange 17).map fun j => writeOf (.b j) (f j)

/-- LOADBLK m: 17 writes of B; refused where m is longer than 136 bytes (R55). -/
def pseudoLoadBlk (m : List Byte) : Option (List Event) :=
  if m.length ≤ 136 then some (writeBlock fun j => blockWord m j.val) else none

/-- READDIG: four reads of D (R55). -/
def pseudoReadDig : List Event := (List.finRange 4).map fun k => readOf (.d k)

/-- The middle of HASH: LOADBLK and EXEC ABSORB for each of the k full 136-byte blocks, then LOADBLK and EXEC FINAL for the rest
(R55). -/
def hashBlocks : Nat → List Byte → Option (List Event)
  | 0, t => inOrder [pseudoLoadBlk t, pseudoExec (.final (BitVec.ofNat 11 (8 * t.length)))]
  | k + 1, m => inOrder [pseudoLoadBlk (m.take 136), pseudoExec .absorb, hashBlocks k (m.drop 136)]

/-- HASH m: EXEC INIT, the blocks, READDIG (R55, R95). No message is refused (Laws/HostProgram.lean). -/
def pseudoHash (m : List Byte) : Option (List Event) :=
  inOrder [pseudoExec .init, hashBlocks (m.length / 136) m, some pseudoReadDig]

/-- The 17 writes of B for at most 1088 message bits, which may end inside a byte (R95); refused for more. -/
def loadBits (bits : List Bool) : Option (List Event) :=
  if bits.length ≤ 1088 then some (writeBlock fun j => (blockOfBits bits).extractLsb' (64 * j.val) 64) else none

/-- The middle of R95's program for a message of bits. -/
def hashBitBlocks : Nat → List Bool → Option (List Event)
  | 0, t => inOrder [loadBits t, pseudoExec (.final (BitVec.ofNat 11 t.length))]
  | k + 1, M => inOrder [loadBits (M.take 1088), pseudoExec .absorb, hashBitBlocks k (M.drop 1088)]

/-- R95's program for a message of bits. -/
def hashBits (M : List Bool) : Option (List Event) :=
  inOrder [pseudoExec .init, hashBitBlocks (M.length / 1088) M, some pseudoReadDig]

/-- One command from its CMD write to its completion, with no access in between (R118): nothing if it is dropped, rejected or stops. -/
def perform (i : Instr) (s : State) : Option State :=
  match submit (encode i) s with
  | .next accepted =>
    if accepted.pend = some (encode i) then
      match engineStep accepted with
      | .next t => some t
      | _ => none
    else none
  | _ => none

/-- Commands performed one after another. -/
def performAll : List Instr → State → Option State
  | [], s => some s
  | i :: rest, s => (perform i s).bind (performAll rest)

/-- The 17 Host writes that load a block into B while the engine is idle (R95: B <- M[…]). -/
def loadBlock (P : Block) (s : State) : State :=
  { s with b := Vector.ofFn fun j : Fin 17 => P.extractLsb' (64 * j.val) 64 }

/-- R95's commands for a message of k full blocks and a tail of fewer than 1088 bits, after INIT. -/
def hashPerform : Nat → List Bool → State → Option State
  | 0, t, s => perform (.final (BitVec.ofNat 11 t.length)) (loadBlock (blockOfBits t) s)
  | k + 1, M, s => (perform .absorb (loadBlock (blockOfBits (M.take 1088)) s)).bind (hashPerform k (M.drop 1088))

end Sys2Proof.Machine
end

