-- ==== Sys2Proof/Machine/AssemblerText.lean ====
section
/-! DEFINITION. The text of a Host program's line (30_encoding.md R55): numbers, register names, statements, and the
pseudo-instructions that need no message. A line is a list of characters; it assembles to the inputs it stands for, or to nothing
where R55 gives it no form or the assembler refuses its operand (log entry 29 for the points of spelling R55 leaves open). LOADBLK and HASH take a message, which R55 writes as a byte string
and gives no text, so they are built from bytes (pseudoLoadBlk, pseudoHash). -/

namespace Sys2Proof.Machine

/-- The pieces of a line between the separators, empty pieces left out. -/
def pieces (isSep : Char → Bool) : List Char → List (List Char)
  | [] => []
  | c :: rest =>
    if isSep c then pieces isSep rest
    else
      match rest, pieces isSep rest with
      | next :: _, first :: more => if isSep next then [c] :: first :: more else (c :: first) :: more
      | _, more => [c] :: more

/-- A digit's value, below 16. -/
def digitOf (c : Char) : Option Nat :=
  if '0' ≤ c ∧ c ≤ '9' then some (c.toNat - '0'.toNat)
  else if 'a' ≤ c ∧ c ≤ 'f' then some (c.toNat - 'a'.toNat + 10)
  else if 'A' ≤ c ∧ c ≤ 'F' then some (c.toNat - 'A'.toNat + 10)
  else none

/-- A digit below the base. -/
def digitBelow (base : Nat) (c : Char) : Option Nat := (digitOf c).filter (· < base)

/-- The value of a literal whose digits so far have the value acc, most significant digit first. Where `_` may stand in a literal is
the model's choice (log entry 29): R8 says that it separates digit groups, so here it stands between two digits and nowhere else. -/
def digitsValue (base : Nat) : Nat → List Char → Option Nat
  | acc, [] => some acc
  | acc, '_' :: c :: rest => (digitBelow base c).bind fun v => digitsValue base (acc * base + v) rest
  | acc, c :: rest => (digitBelow base c).bind fun v => digitsValue base (acc * base + v) rest

/-- A literal of one digit or more in a base. -/
def literal (base : Nat) : List Char → Option Nat
  | [] => none
  | c :: rest => (digitBelow base c).bind fun v => digitsValue base v rest

/-- A number: decimal, or hexadecimal with 0x (R55). -/
def number : List Char → Option Nat
  | '0' :: 'x' :: rest => literal 16 rest
  | text => literal 10 text

/-- A number below n. -/
def numberBelow (n : Nat) (text : List Char) : Option (Fin n) :=
  match number text with
  | some v => if h : v < n then some ⟨v, h⟩ else none
  | none => none

/-- The decimal digits of an index below 100, as R55 writes a register's name: no leading zero. -/
def indexDigits (n : Nat) : List Char :=
  if n < 10 then [Nat.digitChar n] else [Nat.digitChar (n / 10), Nat.digitChar (n % 10)]

/-- The name of a register: A0 to A24, B0 to B16, D0 to D3, CMD, STATUS, CTRL, BLKCNT, RCOUT (R55). -/
def Reg.name : Reg → List Char
  | .a i => 'A' :: indexDigits i.val
  | .b j => 'B' :: indexDigits j.val
  | .d k => 'D' :: indexDigits k.val
  | .cmd => "CMD".toList
  | .status => "STATUS".toList
  | .ctrl => "CTRL".toList
  | .blkcnt => "BLKCNT".toList
  | .rcout => "RCOUT".toList

/-- A lane's other name, A[x,y] (R55). -/
def laneName (x y : Fin 5) : List Char := ['A', '[', Nat.digitChar x.val, ',', Nat.digitChar y.val, ']']

/-- Every register of the window (R35). -/
def allRegs : List Reg :=
  (List.finRange 25).map Reg.a ++ (List.finRange 17).map Reg.b ++ (List.finRange 4).map Reg.d ++
    [.cmd, .status, .ctrl, .blkcnt, .rcout]

/-- Every register with each of its names (R55). -/
def registerNames : List (List Char × Reg) :=
  allRegs.map (fun r => (r.name, r)) ++
    (List.finRange 5).flatMap fun x => (List.finRange 5).map fun y => (laneName x y, Reg.a (laneIndex x y))

/-- The register a text names: exactly one of R55's names, or nothing. -/
def regNamed (text : List Char) : Option Reg := registerNames.lookup text

/-- A command statement's words (R55). -/
def commandNamed : List (List Char) → Option Instr
  | [name] =>
    if name = "NOP".toList then some .nop
    else if name = "INIT".toList then some .init
    else if name = "ABSORB".toList then some .absorb
    else if name = "PERMUTE".toList then some .permute
    else if name = "THETA".toList then some .theta
    else if name = "RHO".toList then some .rho
    else if name = "PI".toList then some .pi
    else if name = "CHI".toList then some .chi
    else none
  | [name, operand] =>
    if name = "FINAL".toList then (numberBelow 1088 operand).map fun n => .final (BitVec.ofNat 11 n.val)
    else if name = "ROUND".toList then (numberBelow 24 operand).map fun r => .round (BitVec.ofNat 5 r.val)
    else if name = "IOTA".toList then (numberBelow 24 operand).map fun r => .iota (BitVec.ofNat 5 r.val)
    else if name = "RCGEN".toList then (numberBelow 24 operand).map fun r => .rcgen (BitVec.ofNat 5 r.val)
    else none
  | _ => none

/-- A statement's words (R55). -/
def stmtNamed : List (List Char) → Option Stmt
  | [name, first, second] =>
    if name = "WR".toList ∧ first.getLast? = some ',' then
      match regNamed first.dropLast, numberBelow (2 ^ 64) second with
      | some r, some v => some (.wr r (BitVec.ofNat 64 v.val))
      | _, _ => none
    else none
  | [name, reg, arrow, _] =>
    if name = "RD".toList ∧ arrow = "->".toList then (regNamed reg).map .rd else none
  | words => (commandNamed words).map .command

/-- Assemble one line of text (R55). -/
def assembleLine (line : List Char) : Option (List Event) :=
  match pieces (· = ' ') line with
  | [name] =>
    if name = "WAIT".toList then some pseudoWait
    else if name = "CLRDONE".toList then some pseudoClrDone
    else if name = "CLRERR".toList then some pseudoClrErr
    else (stmtNamed [name]).bind fun st => (assemble st).map fun e => [e]
  | name :: rest =>
    if name = "EXEC".toList then (commandNamed rest).bind pseudoExec
    else if name = "READDIG".toList ∧ rest.head? = some "->".toList ∧ rest.length = 2 then some pseudoReadDig
    else (stmtNamed (name :: rest)).bind fun st => (assemble st).map fun e => [e]
  | [] => none

end Sys2Proof.Machine
end

