-- ==== Sys2Proof/Safety.lean ====
section
/-! DEFINITION. What a sound state is, when a run has ended, and what an observer sees (10_state.md R24, R28, R29, R16;
70_reset_and_hazards.md R116, R123). -/

namespace Sys2Proof.Machine

/-- The word is one R118 accepts in this state: it decodes, and its checks raise no error. -/
def admissible (v : Word) (s : State) : Bool :=
  match decode v with
  | .ok i => admission i s == none
  | .error _ => false

/-- Every register has its reset value (R33, R116). -/
abbrev State.AtReset (s : State) : Prop :=
  s = { State.reset with
        resetLine := s.resetLine, events := s.events, responses := s.responses, delay := 0, draws := s.draws }

/-- What every state of a run satisfies: PEND holds a word exactly while BUSY = 1, and one that R118 accepts (R28, R118); the round
counter holds a count below 24, and only while BUSY = 1 (R29); ERR holds a code of R98; D is 0 while DVALID = 0 (R16); and every
register has its reset value while reset is asserted (R116). -/
structure State.Inv (s : State) : Prop where
  busy_iff_pend : s.busy = s.pend.isSome
  pend_admissible : ∀ v, s.pend = some v → admissible v s = true
  counter_only_busy : s.busy = false → s.roundCtr = none
  counter_below_rounds : ∀ c, s.roundCtr = some c → c.toNat < Config.rounds
  err_defined : s.err.toNat ≤ 4
  digest_hidden : s.dvalid = false → s.d = Vector.replicate 4 0
  reset_held : s.resetLine = true → s.AtReset

/-- The run has ended: the Host has made its last access and no command is pending (R123). -/
def State.RunEnded (s : State) : Prop := s.events = [] ∧ s.busy = false

/-- What an observer sees of the registers (R123): every register as a Host read gives it, and irq. -/
structure Observation where
  a : Lanes
  b : BlockBuf
  d : Digest
  status : Word
  ctrl : Word
  blkcnt : Word
  rcout : Word
  irq : Bool
  deriving DecidableEq, Repr

/-- The observer function (R123). -/
def State.observe (s : State) : Observation where
  a := s.a
  b := s.b
  d := if s.dvalid then s.d else Vector.replicate 4 0
  status := s.status
  ctrl := s.ctrl
  blkcnt := s.blkcnt
  rcout := s.rcout
  irq := s.irq

end Sys2Proof.Machine
end

