-- ==== Sys2Proof/Certificates/Slice0/Obligations.lean ====
section
/-! DEFINITION. The statements about the engine, from the numbered rules of spec/. In every result, `{ s with … }` names all the
fields that change, so it is the statement's frame too. A free value (the LFSR a command leaves, the length of the busy window, a
read while busy) is bound by an existential: no statement says which value it is. -/

open Sys2Proof Sys2Proof.Machine

/-! ## Encoding and decoding -/

/-- 30_encoding.md R49 to R51: decoding the word of a command gives the command back, whatever value its field holds. -/
def Obligations.DecodeOfEncode : Prop := ∀ i : Instr, decode (encode i) = .ok i

/-- 30_encoding.md R51, R52: the word of a decoded command is the only word that stands for it. -/
def Obligations.EncodeOfDecode : Prop := ∀ (v : Word) (i : Instr), decode v = .ok i → encode i = v

/-- 30_encoding.md R51: the rows of the opcode map, their match, their mask, and the operand each reads from the word. -/
def Obligations.OpcodeMapRows : Prop :=
  opmap.map (fun r => (r.matchBits, r.mask)) =
    [ (0x0000_0000_0000_0000#64, 0xFFFF_FFFF_FFFF_FFFF#64), (0x0000_0000_0000_0001#64, 0xFFFF_FFFF_FFFF_FFFF#64),
      (0x0000_0000_0000_0002#64, 0xFFFF_FFFF_FFFF_FFFF#64), (0x0000_0000_0000_0003#64, 0xFFFF_FFFF_F800_FFFF#64),
      (0x0000_0000_0000_0010#64, 0xFFFF_FFFF_FFFF_FFFF#64), (0x0000_0000_0000_0011#64, 0xFFFF_FFFF_FFFF_E0FF#64),
      (0x0000_0000_0000_0012#64, 0xFFFF_FFFF_FFFF_FFFF#64), (0x0000_0000_0000_0013#64, 0xFFFF_FFFF_FFFF_FFFF#64),
      (0x0000_0000_0000_0014#64, 0xFFFF_FFFF_FFFF_FFFF#64), (0x0000_0000_0000_0015#64, 0xFFFF_FFFF_FFFF_FFFF#64),
      (0x0000_0000_0000_0016#64, 0xFFFF_FFFF_FFFF_E0FF#64), (0x0000_0000_0000_0017#64, 0xFFFF_FFFF_FFFF_E0FF#64) ] ∧
  ∀ v : Word, opmap.map (fun r => r.build v) =
    [ .nop, .init, .absorb, .final (v.extractLsb' 16 11), .permute, .round (v.extractLsb' 8 5), .theta, .rho, .pi, .chi,
      .iota (v.extractLsb' 8 5), .rcgen (v.extractLsb' 8 5) ]

/-- Words written out from the encodings of 30_encoding.md R51 and R55 decode to the commands they stand for. -/
def Obligations.WordsDecodeAsEncoded : Prop :=
  decode 0x0000_0000_0000_0000 = .ok .nop ∧ decode 0x0000_0000_0000_0001 = .ok .init ∧
  decode 0x0000_0000_0000_0002 = .ok .absorb ∧ decode 0x0000_0000_043F_0003 = .ok (.final 1087) ∧
  decode 0x0000_0000_0008_0003 = .ok (.final 8) ∧ decode 0x0000_0000_0000_0010 = .ok .permute ∧
  decode 0x0000_0000_0000_1711 = .ok (.round 23) ∧ decode 0x0000_0000_0000_0012 = .ok .theta ∧
  decode 0x0000_0000_0000_0013 = .ok .rho ∧ decode 0x0000_0000_0000_0014 = .ok .pi ∧
  decode 0x0000_0000_0000_0015 = .ok .chi ∧ decode 0x0000_0000_0000_0516 = .ok (.iota 5) ∧
  decode 0x0000_0000_0000_0117 = .ok (.rcgen 1) ∧ decode 0x0000_0000_0000_2011 = .error .unusedBitSet ∧
  decode 0x0000_0000_0000_0018 = .error .undefinedOpcode

/-- 30_encoding.md R52: a write of v to CMD that is not dropped runs the one row that accepts v, or is rejected with ILLEGAL. -/
def Obligations.SubmitFollowsTheOpcodeMap : Prop :=
  ∀ (v : Word) (s : State), s.busy = false →
    (∀ r ∈ opmap, v &&& r.mask = r.matchBits →
      submit v s = exec (r.build v) s ∧ ∀ r' ∈ opmap, v &&& r'.mask = r'.matchBits → r'.matchBits = r.matchBits) ∧
    ((∀ r ∈ opmap, v &&& r.mask ≠ r.matchBits) →
      submit v s = .next { s with err := if s.err = 0 then 1 else s.err, done := true })

/-- 30_encoding.md R54: which words are illegal, under which name the decoder refuses each, what an illegal word changes, and that
the word 0 is the only no-operation. -/
def Obligations.IllegalWordsAreRefused : Prop :=
  ∀ v : Word,
    ((∀ r ∈ opmap, v &&& r.mask ≠ r.matchBits) →
      (∃ e, decode v = .error e) ∧
      ∀ s : State, s.busy = false →
        submit v s = .next { s with err := if s.err = 0 then 1 else s.err, done := true }) ∧
    ((0x04 ≤ (opField v).toNat ∧ (opField v).toNat ≤ 0x0F) ∨ 0x18 ≤ (opField v).toNat →
      decode v = .error .undefinedOpcode) ∧
    (∀ r ∈ opmap, opField v = opField r.matchBits → v &&& r.mask ≠ r.matchBits → decode v = .error .unusedBitSet) ∧
    (decode v = .ok .nop ↔ v = 0)

/-! ## The command lifecycle and its errors -/

/-- 30_encoding.md R53: an operand out of range rejects the command with BADARG before any state changes and in either phase; an
operand in range lets an idle engine accept it. -/
def Obligations.OperandRangeChecks : Prop :=
  ∀ s : State,
    (∀ r : BitVec 5, 23 < r.toNat → ∀ i ∈ [Instr.round r, .iota r, .rcgen r],
      exec i s = .next { s with err := if s.err = 0 then 2 else s.err, done := true }) ∧
    (∀ n : BitVec 11, 1087 < n.toNat →
      exec (.final n) s = .next { s with err := if s.err = 0 then 2 else s.err, done := true }) ∧
    (∀ r : BitVec 5, r.toNat ≤ 23 → s.busy = false → ∀ i ∈ [Instr.round r, .iota r, .rcgen r],
      ∃ t, exec i s = .next t ∧ t.busy = true ∧ t.pend = some (encode i) ∧ t.err = s.err) ∧
    (∀ n : BitVec 11, n.toNat ≤ 1087 → s.busy = false → s.dvalid = false →
      ∃ t, exec (.final n) s = .next t ∧ t.busy = true ∧ t.pend = some (encode (.final n)) ∧ t.err = s.err)

/-- 70_reset_and_hazards.md R118, the CMD write: while BUSY = 0 a command that passes its checks is accepted. PEND takes its word and
BUSY becomes 1; the delay, the draw counter and the round counter (a count below 24, for a command that runs the permutation only)
are the model's record of the open latency and of R29; nothing else changes, DONE among it. -/
def Obligations.AcceptanceEffect : Prop :=
  ∀ (i : Instr) (s : State), s.busy = false → i.WellFormed →
    (s.dvalid = true → i ≠ .absorb ∧ ∀ n, i ≠ .final n) →
    ∃ c n k, submit (encode i) s =
        .next { s with pend := some (encode i), busy := true, roundCtr := c, delay := n, draws := k } ∧
      (∀ m, c = some m → m.toNat < 24) ∧
      (c ≠ none → i = .permute ∨ i = .absorb ∨ ∃ nb, i = .final nb)

/-- 60_exceptions.md R100: a rejected command's exact effects, for each of the three codes, and irq afterwards. -/
def Obligations.RejectedCommandEffect : Prop :=
  ∀ (v : Word) (s : State) (code : BitVec 4), s.busy = false →
    ((code = 1 ∧ ∃ e, decode v = .error e) ∨
     (code = 2 ∧ ∃ i, decode v = .ok i ∧ ¬ i.WellFormed) ∨
     (code = 3 ∧ s.dvalid = true ∧ ∃ i, decode v = .ok i ∧ i.WellFormed ∧ (i = .absorb ∨ ∃ n, i = .final n))) →
    ∃ t, submit v s = .next t ∧ t = { s with err := if s.err = 0 then code else s.err, done := true } ∧
      t.busy = false ∧ t.irq = s.ie

/-- 60_exceptions.md R104: the first error a write to CMD meets, in the order bus error, BUSY, ILLEGAL, BADARG, SEQUENCE, is the only
one reported, and a command that meets none is accepted. -/
def Obligations.CommandErrorPriority : Prop :=
  ∀ (s : State) (width : Nat) (v : Word), s.resetLine = false →
    (width ≠ 8 → hostWrite width 0x300 v s = .next { s with responses := .busError 0x300 :: s.responses }) ∧
    (s.busy = true → hostWrite 8 0x300 v s =
      .next { s with err := if s.err = 0 then 4 else s.err, responses := .written :: s.responses }) ∧
    (s.busy = false → ∀ e, decode v = .error e → hostWrite 8 0x300 v s =
      .next { s with err := if s.err = 0 then 1 else s.err, done := true, responses := .written :: s.responses }) ∧
    (s.busy = false → ∀ i, decode v = .ok i → ¬ i.WellFormed → hostWrite 8 0x300 v s =
      .next { s with err := if s.err = 0 then 2 else s.err, done := true, responses := .written :: s.responses }) ∧
    (s.busy = false → s.dvalid = true → ∀ i, decode v = .ok i → i.WellFormed → (i = .absorb ∨ ∃ n, i = .final n) →
      hostWrite 8 0x300 v s =
        .next { s with err := if s.err = 0 then 3 else s.err, done := true, responses := .written :: s.responses }) ∧
    (s.busy = false → ∀ i, decode v = .ok i → i.WellFormed → (s.dvalid = true → i ≠ .absorb ∧ ∀ n, i ≠ .final n) →
      ∃ t, hostWrite 8 0x300 v s = .next t ∧ t.busy = true ∧ t.pend = some v ∧ t.err = s.err ∧ t.done = s.done)

/-! ## What each command does at its completion (70_reset_and_hazards.md R118, R119) -/

/-- 45_sponge.md R90: NOP completes and writes nothing but STATUS. That the hidden LFSR keeps its value too is the model's choice (log entry 6,
DEDUCED: U11 lets it hold any value). -/
def Obligations.NopCompletes : Prop :=
  ∀ s : State, s.busy = true →
    exec .nop s = .next { s with busy := false, done := true, pend := none, roundCtr := none }

/-- 45_sponge.md R91: INIT sets A, B, D, DVALID, BLKCNT, RCOUT and ERR to 0, in either phase, and leaves CTRL. That the hidden LFSR keeps its value too is the model's choice (log entry 6,
DEDUCED: U11 lets it hold any value). -/
def Obligations.InitCompletes : Prop :=
  ∀ s : State, s.busy = true →
    exec .init s = .next
      { s with
        a := Vector.replicate 25 0, b := Vector.replicate 17 0, d := Vector.replicate 4 0, dvalid := false, blkcnt := 0,
        rcout := 0, err := 0, busy := false, done := true, pend := none, roundCtr := none }

/-- 45_sponge.md R92: ABSORB XORs the 17 words of B into the rate lanes, permutes, and adds 1 to BLKCNT modulo 2^64; B keeps its
value. -/
def Obligations.AbsorbCompletes : Prop :=
  ∀ s : State, s.busy = true → s.dvalid = false →
    ∃ l n, exec .absorb s = .next
      { s with
        a := keccakF (Vector.ofFn fun i : Fin 25 => if h : i.val < 17 then s.a[i.val] ^^^ s.b[i.val] else s.a[i.val])
        blkcnt := s.blkcnt + 1, lfsr := l, draws := n, busy := false, done := true, pend := none, roundCtr := none }

/-- 45_sponge.md R93, 40_padding.md R60: FINAL with nbits at most 1086 absorbs one block (the message bits of B below nbits, a 1 at
nbits, 0s, a 1 at 1087), latches D = A[0..3] and enters phase SQUEEZED. -/
def Obligations.FinalCompletesInOneBlock : Prop :=
  ∀ (s : State) (nb : BitVec 11), s.busy = true → s.dvalid = false → nb.toNat ≤ 1086 →
    ∃ (P : Block) (t : State), exec (.final nb) s = .next t ∧
      (∀ j : Fin 17, ∀ z < 64, P.getLsbD (64 * j.val + z) =
        if 64 * j.val + z < nb.toNat then s.b[j.val].getLsbD z
        else decide (64 * j.val + z = nb.toNat ∨ 64 * j.val + z = 1087)) ∧
      t.a = keccakF (xorblock s.a P) ∧ (∀ k : Fin 4, t.d[k.val] = t.a[k.val]) ∧
      t = { s with
            a := t.a, d := t.d, dvalid := true, blkcnt := s.blkcnt + 1, lfsr := t.lfsr, draws := t.draws,
            busy := false, done := true, pend := none, roundCtr := none }

/-- 45_sponge.md R93, 40_padding.md R60: FINAL with nbits = 1087 absorbs two blocks, the second of padding only, and BLKCNT goes up
by 2. -/
def Obligations.FinalCompletesInTwoBlocks : Prop :=
  ∀ s : State, s.busy = true → s.dvalid = false →
    ∃ (P Q : Block) (t : State), exec (.final 1087) s = .next t ∧
      (∀ j : Fin 17, ∀ z < 64, P.getLsbD (64 * j.val + z) =
        if 64 * j.val + z < 1087 then s.b[j.val].getLsbD z else true) ∧
      (∀ k < 1088, Q.getLsbD k = decide (k = 1087)) ∧
      t.a = keccakF (xorblock (keccakF (xorblock s.a P)) Q) ∧ (∀ k : Fin 4, t.d[k.val] = t.a[k.val]) ∧
      t = { s with
            a := t.a, d := t.d, dvalid := true, blkcnt := s.blkcnt + 2, lfsr := t.lfsr, draws := t.draws,
            busy := false, done := true, pend := none, roundCtr := none }

/-- 44_permutation.md R85, R86, R89: PERMUTE applies the 24 rounds θ, ρ, π, χ, ι in increasing order to A, in either phase. -/
def Obligations.PermuteCompletes : Prop :=
  ∀ s : State, s.busy = true →
    ∃ l n, exec .permute s = .next
      { s with
        a := (List.range 24).foldl (fun A ir => iota (chi (pi (rho (theta A)))) ir) s.a
        lfsr := l, draws := n, busy := false, done := true, pend := none, roundCtr := none }

/-- 44_permutation.md R85, R88: ROUND applies one round with its round index to A, in either phase. -/
def Obligations.RoundCompletes : Prop :=
  ∀ (s : State) (r : BitVec 5), s.busy = true → r.toNat ≤ 23 →
    ∃ l n, exec (.round r) s = .next
      { s with
        a := iota (chi (pi (rho (theta s.a)))) r.toNat
        lfsr := l, draws := n, busy := false, done := true, pend := none, roundCtr := none }

/-- 42_step_mappings.md R68, R75: THETA XORs each bit with the parity of column x−1 at z and of column x+1 at z−1, and changes nothing
else.
That the hidden LFSR keeps its value too is the model's choice (log entry 6, DEDUCED: U11 lets it hold any value). -/
def Obligations.ThetaCompletes : Prop :=
  ∀ s : State, s.busy = true →
    ∃ t, exec .theta s = .next t ∧
      t = { s with a := t.a, busy := false, done := true, pend := none, roundCtr := none } ∧
      ∀ (x y : Fin 5) (z : Nat), z < 64 →
        let parity := fun (x : Fin 5) (z : Nat) =>
          (laneAt s.a x 0).getLsbD z ^^ (laneAt s.a x 1).getLsbD z ^^ (laneAt s.a x 2).getLsbD z ^^
            (laneAt s.a x 3).getLsbD z ^^ (laneAt s.a x 4).getLsbD z
        (laneAt t.a x y).getLsbD z =
          ((laneAt s.a x y).getLsbD z ^^ parity (x - 1) z ^^ parity (x + 1) ((z + 63) % 64))

/-- 42_step_mappings.md R69, R70, R76: RHO rotates each lane left by its offset in R69's table (row x, entry y), and changes nothing
else.
That the hidden LFSR keeps its value too is the model's choice (log entry 6, DEDUCED: U11 lets it hold any value). -/
def Obligations.RhoCompletes : Prop :=
  ∀ s : State, s.busy = true →
    ∃ t, exec .rho s = .next t ∧
      t = { s with a := t.a, busy := false, done := true, pend := none, roundCtr := none } ∧
      ∀ (x y : Fin 5) (z : Nat), z < 64 →
        let off := (([[0, 36, 3, 41, 18], [1, 44, 10, 45, 2], [62, 6, 43, 15, 61], [28, 55, 25, 21, 56],
          [27, 20, 39, 8, 14]] : List (List Nat)).getD x.val []).getD y.val 0
        (laneAt t.a x y).getLsbD z = (laneAt s.a x y).getLsbD ((z + 64 - off) % 64)

/-- 42_step_mappings.md R71, R77: PI moves lane src(i) of R71's table to lane i, and changes nothing else.
That the hidden LFSR keeps its value too is the model's choice (log entry 6, DEDUCED: U11 lets it hold any value). -/
def Obligations.PiCompletes : Prop :=
  ∀ s : State, s.busy = true →
    ∃ t, exec .pi s = .next t ∧
      t = { s with a := t.a, busy := false, done := true, pend := none, roundCtr := none } ∧
      (∀ i : Fin 25, t.a[i.val]? = s.a[([0, 6, 12, 18, 24, 3, 9, 10, 16, 22, 1, 7, 13, 19, 20, 4, 5, 11, 17, 23, 2, 8, 14, 15,
        21] : List Nat).getD i.val 0]?) ∧
      ∀ x y : Fin 5, laneAt t.a x y = laneAt s.a (x + 3 * y) x

/-- 42_step_mappings.md R72, R78: CHI XORs each bit with (NOT the bit of lane x+1) AND the bit of lane x+2, every lane read before any
is written, and changes nothing else.
That the hidden LFSR keeps its value too is the model's choice (log entry 6, DEDUCED: U11 lets it hold any value). -/
def Obligations.ChiCompletes : Prop :=
  ∀ s : State, s.busy = true →
    ∃ t, exec .chi s = .next t ∧
      t = { s with a := t.a, busy := false, done := true, pend := none, roundCtr := none } ∧
      ∀ (x y : Fin 5) (z : Nat), z < 64 →
        (laneAt t.a x y).getLsbD z =
          ((laneAt s.a x y).getLsbD z ^^ (!(laneAt s.a (x + 1) y).getLsbD z && (laneAt s.a (x + 2) y).getLsbD z))

/-- 42_step_mappings.md R73, R79: IOTA XORs RC[ridx] into A[0]; every other lane and register keeps its value. -/
def Obligations.IotaCompletes : Prop :=
  ∀ (s : State) (r : BitVec 5), s.busy = true → r.toNat ≤ 23 →
    ∃ t, exec (.iota r) s = .next t ∧
      t = { s with
            a := t.a, lfsr := t.lfsr, draws := t.draws, busy := false, done := true, pend := none, roundCtr := none } ∧
      ∀ x y : Fin 5, laneAt t.a x y =
        if x = 0 ∧ y = 0 then laneAt s.a 0 0 ^^^ roundConstant r.toNat else laneAt s.a x y

/-- 43_round_constants.md R84: RCGEN writes RC[ridx] to RCOUT, and changes nothing else. -/
def Obligations.RcgenCompletes : Prop :=
  ∀ (s : State) (r : BitVec 5), s.busy = true → r.toNat ≤ 23 →
    ∃ l n, exec (.rcgen r) s = .next
      { s with
        rcout := roundConstant r.toNat, lfsr := l, draws := n, busy := false, done := true, pend := none,
        roundCtr := none }

/-! ## The functions the commands compute -/

/-- 43_round_constants.md R80, R81: the LFSR step in the formula's form and bit by bit; its period of 255 from 0x01; and rc(t) as bit 0
after t mod 255 steps from 0x01, which is bit 0 after t steps, for every t. -/
def Obligations.LfsrStepAndOutput : Prop :=
  (∀ R : BitVec 8, lfsrStep R = ((R <<< 1) &&& 0xFF) ^^^ (if R.getLsbD 7 then 0x71 else 0)) ∧
  (∀ (R : BitVec 8) (k : Fin 8), (lfsrStep R).getLsbD k.val =
    ((decide (k.val ≠ 0) && R.getLsbD (k.val - 1)) ^^ (decide (k.val ∈ [0, 4, 5, 6]) && R.getLsbD 7))) ∧
  (List.range 12).map (lfsrRun 0x01) = [0x01, 0x02, 0x04, 0x08, 0x10, 0x20, 0x40, 0x80, 0x71, 0xE2, 0xB5, 0x1B] ∧
  (lfsrRun 0x01 255 = 0x01 ∧ ∀ p : Fin 255, 0 < p.val → lfsrRun 0x01 p.val ≠ 0x01) ∧
  (∀ t : Nat, t % 255 = 0 → rc t = true) ∧
  (∀ t : Nat, rc t = (lfsrRun 0x01 (t % 255)).getLsbD 0) ∧
  ∀ t : Nat, rc t = (lfsrRun 0x01 t).getLsbD 0

/-- 43_round_constants.md R82: the 24 round constants, and that their bits are the rc values at the positions 2^j − 1 and 0
elsewhere. -/
def Obligations.RoundConstantTable : Prop :=
  (List.range 24).map roundConstant =
    [ 0x0000_0000_0000_0001, 0x0000_0000_0000_8082, 0x8000_0000_0000_808A, 0x8000_0000_8000_8000, 0x0000_0000_0000_808B,
      0x0000_0000_8000_0001, 0x8000_0000_8000_8081, 0x8000_0000_0000_8009, 0x0000_0000_0000_008A, 0x0000_0000_0000_0088,
      0x0000_0000_8000_8009, 0x0000_0000_8000_000A, 0x0000_0000_8000_808B, 0x8000_0000_0000_008B, 0x8000_0000_0000_8089,
      0x8000_0000_0000_8003, 0x8000_0000_0000_8002, 0x8000_0000_0000_0080, 0x0000_0000_0000_800A, 0x8000_0000_8000_000A,
      0x8000_0000_8000_8081, 0x8000_0000_0000_8080, 0x0000_0000_8000_0001, 0x8000_0000_8000_8008 ] ∧
  ∀ (ir : Fin 24) (z : Fin 64), (roundConstant ir.val).getLsbD z.val =
    (List.range 7).any fun j => decide (z.val = 2 ^ j - 1) && rc (j + 7 * ir.val)

/-- 43_round_constants.md R83: the register form of the generator, started at 0x01 and stepped seven times a round, gives RC[ir] in
every round. -/
def Obligations.GeneratorEqualsTable : Prop := ∀ ir : Nat, (generateConstant (generatorLfsr ir)).1 = roundConstant ir

/-- 42_step_mappings.md R74: θ, ρ and π are linear over GF(2), ι is affine; θ, ρ, π and χ fix the all-zero and the all-ones array. -/
def Obligations.StepMappingsLinearAndFixedPoints : Prop :=
  (∀ f ∈ [theta, rho, pi], ∀ A B : Lanes,
    f (Vector.zipWith (· ^^^ ·) A B) = Vector.zipWith (· ^^^ ·) (f A) (f B)) ∧
  (∀ (ir : Nat) (A B C : Lanes),
    iota (Vector.zipWith (· ^^^ ·) A (Vector.zipWith (· ^^^ ·) B C)) ir =
      Vector.zipWith (· ^^^ ·) (iota A ir) (Vector.zipWith (· ^^^ ·) (iota B ir) (iota C ir))) ∧
  ∀ f ∈ [theta, rho, pi, chi],
    f (Vector.replicate 25 0) = Vector.replicate 25 0 ∧
    f (Vector.replicate 25 0xFFFF_FFFF_FFFF_FFFF) = Vector.replicate 25 0xFFFF_FFFF_FFFF_FFFF

/-- 42_step_mappings.md R74, conflict C1: θ, with its two parities, ρ, π, χ and ι are bijections of the lane arrays. -/
def Obligations.StepMappingsBijective : Prop :=
  Function.Bijective theta ∧ Function.Bijective rho ∧ Function.Bijective pi ∧ Function.Bijective chi ∧
    ∀ ir : Nat, Function.Bijective fun A : Lanes => iota A ir

/-- 44_permutation.md R86: Keccak-f is a bijection on the 1600-bit space. -/
def Obligations.KeccakFBijective : Prop :=
  Function.Bijective keccakF ∧ Function.Bijective fun S : Flat => flat (keccakF (lanes S))

/-- 44_permutation.md R87: the 24 ROUND commands leave the state of one PERMUTE, and the five step commands leave that of ROUND r,
with no other write to A in between. -/
def Obligations.CommandCompositions : Prop :=
  ∀ s : State, s.busy = false → s.pend = none →
    (∃ t u, performAll ((List.range 24).map fun r => Instr.round (BitVec.ofNat 5 r)) s = some t ∧
      perform .permute s = some u ∧ t.a = u.a ∧ t.observe = u.observe) ∧
    ∀ r : BitVec 5, r.toNat ≤ 23 →
      ∃ t u, performAll [.theta, .rho, .pi, .chi, .iota r] s = some t ∧ perform (.round r) s = some u ∧ t.a = u.a ∧
        t.observe = u.observe

/-- 41_lane_mapper.md R62, R63: flat bit 64·(5y+x)+z is bit z of lane (x, y), and the two directions are mutual inverses. -/
def Obligations.LaneMapperRoundTrip : Prop :=
  (∀ (A : Lanes) (x y : Fin 5) (z : Nat), z < 64 →
    (flat A).getLsbD (64 * (5 * y.val + x.val) + z) = (laneAt A x y).getLsbD z) ∧
  (∀ (S : Flat) (x y : Fin 5), laneAt (lanes S) x y = S.extractLsb' (64 * (5 * y.val + x.val)) 64) ∧
  (∀ A : Lanes, lanes (flat A) = A) ∧ ∀ S : Flat, flat (lanes S) = S

/-- 41_lane_mapper.md R65, R66: a block is XORed into lanes 0 to 16 only, as its extension with 512 zero bits is into the flat state,
and word i of the block buffer meets lane i; the digest is flat bits [0, 256), the four lanes A[0..3]. -/
def Obligations.SpongeViewsOfTheState : Prop :=
  (∀ (A : Lanes) (P : Block) (i : Fin 25), (xorblock A P)[i.val] =
    if i.val < 17 then A[i.val] ^^^ P.extractLsb' (64 * i.val) 64 else A[i.val]) ∧
  (∀ (A : Lanes) (P : Block), flat (xorblock A P) = flat A ^^^ P.setWidth 1600) ∧
  (∀ (B : BlockBuf) (i : Fin 17), (blockOf B).extractLsb' (64 * i.val) 64 = B[i.val]) ∧
  ∀ A : Lanes, digestValue (squeeze A) = (flat A).extractLsb' 0 256 ∧
    (digestValue (squeeze A)).toNat = A[0].toNat + 2 ^ 64 * A[1].toNat + 2 ^ 128 * A[2].toNat + 2 ^ 192 * A[3].toNat

/-- 20_memory.md R40, R41, 41_lane_mapper.md R67: LOADBLK's 17 words hold message byte m at block bits [8m+7 : 8m], zero beyond the
message, which is the block of the message's bits. -/
def Obligations.BytesFillTheBlock : Prop :=
  ∀ m : List Byte, m.length ≤ 136 →
    (∀ k < 136, (blockOf (Vector.ofFn fun j : Fin 17 => blockWord m j.val)).extractLsb' (8 * k) 8 = m.getD k 0) ∧
    blockOf (Vector.ofFn fun j : Fin 17 => blockWord m j.val) = blockOfBits (messageBits m)

/-- 40_padding.md R56: the padded string's bits, and the count of 0 bits. -/
def Obligations.PaddedStringBits : Prop :=
  ∀ M : List Bool,
    (∀ i : Nat, (padded M)[i]? =
      if i < M.length then M[i]?
      else if i = M.length ∨ i = M.length + padZeros M.length + 1 then some true
      else if i < M.length + padZeros M.length + 1 then some false
      else none) ∧
    (M.length + 1 + padZeros M.length) % 1088 = 1087 ∧ padZeros M.length < 1088

/-- 40_padding.md R57: the lengths of the padded string and of the padding, and the number of blocks. -/
def Obligations.PaddingLengths : Prop :=
  ∀ M : List Bool,
    (padded M).length = M.length + padZeros M.length + 2 ∧ 0 < (padded M).length ∧ (padded M).length % 1088 = 0 ∧
    (padding M.length).length = padZeros M.length + 2 ∧
    2 ≤ (padding M.length).length ∧ (padding M.length).length ≤ 1089 ∧
    ((padding M.length).length = 1089 ↔ M.length % 1088 = 1087) ∧
    ((padding M.length).length = 2 ↔ M.length % 1088 = 1086) ∧
    (paddedBlocks M).length = M.length / 1088 + if M.length % 1088 = 1087 then 2 else 1

/-- 40_padding.md R58: bit k of block i is bit 1088·i + k of the padded string, and every bit of it lies in some block. -/
def Obligations.BlockSequenceBits : Prop :=
  ∀ (M : List Bool) (i k : Nat), k < 1088 →
    ((paddedBlocks M)[i]?).map (fun P => P.getLsbD k) = (padded M)[1088 * i + k]?

/-- 40_padding.md R60: the aligner's blocks bit by bit; bits of B at index nb and above are ignored. -/
def Obligations.AlignerBlocks : Prop :=
  ∀ (B : Block) (nb : Nat),
    (nb ≤ 1086 → ∃ P, align B nb = [P] ∧ ∀ k < 1088, P.getLsbD k =
      if k < nb then B.getLsbD k else decide (k = nb ∨ k = 1087)) ∧
    (nb = 1087 → ∃ P Q, align B nb = [P, Q] ∧
      (∀ k < 1088, P.getLsbD k = if k < 1087 then B.getLsbD k else true) ∧ ∀ k < 1088, Q.getLsbD k = decide (k = 1087))

/-- 40_padding.md R61: absorbing the full blocks unchanged and then the aligner's blocks absorbs exactly the padded message's
blocks, whatever B holds beyond the tail. -/
def Obligations.AlignerImplementsPadding : Prop :=
  ∀ (M : List Bool) (B : Block),
    (∀ t < M.length % 1088, B.getLsbD t = M.getD (1088 * (M.length / 1088) + t) false) →
    paddedBlocks M = blocksOf (M.length / 1088) M ++ align B (M.length % 1088)

/-- 45_sponge.md R95: INIT, ABSORB for each full block and FINAL for the tail, on any idle engine, end with D the hash of the message,
BLKCNT its number of blocks and DVALID = 1, for a message of any length. -/
def Obligations.CommandsComputeTheHash : Prop :=
  ∀ (M : List Bool) (s : State), s.busy = false → s.pend = none →
    ∃ t, ((perform .init s).bind (hashPerform (M.length / 1088) M)) = some t ∧
      digestValue t.d = spongeHash M ∧ t.blkcnt = BitVec.ofNat 64 ((padded M).length / 1088) ∧ t.dvalid = true ∧
      t.done = true ∧ t.busy = false

/-! ## The register window -/

/-- 20_memory.md R35: the register at every offset of the window, and each register's access rights. -/
def Obligations.RegisterMap : Prop :=
  (∀ i : Fin 25, regAt (0x000 + 8 * i.val) = some (.a i)) ∧
  (∀ j : Fin 17, regAt (0x100 + 8 * j.val) = some (.b j)) ∧
  (∀ k : Fin 4, regAt (0x200 + 8 * k.val) = some (.d k)) ∧
  regAt 0x300 = some .cmd ∧ regAt 0x308 = some .status ∧ regAt 0x310 = some .ctrl ∧ regAt 0x318 = some .blkcnt ∧
  regAt 0x320 = some .rcout ∧
  (∀ off < 0x400,
    off % 8 ≠ 0 ∨ (0x0C8 ≤ off ∧ off ≤ 0x0F8) ∨ (0x188 ≤ off ∧ off ≤ 0x1F8) ∨ (0x220 ≤ off ∧ off ≤ 0x2F8) ∨ 0x328 ≤ off →
    regAt off = none) ∧
  (∀ r : Reg, regAt r.offset = some r ∧ r.offset < 0x400) ∧
  (∀ x y : Fin 5, (Reg.a (laneIndex x y)).offset = 8 * (x.val + 5 * y.val)) ∧
  (∀ r : Reg, r.readable = true ↔ r ≠ .cmd) ∧
  ∀ r : Reg, r.writable = false ↔ (∃ k, r = .d k) ∨ r = .blkcnt ∨ r = .rcout

/-- 60_exceptions.md R102, 20_memory.md R36, R37: exactly which accesses inside the window get a bus error; it changes no engine
state, BUSY or not, and every other access completes. -/
def Obligations.BusErrorsExactly : Prop :=
  ∀ (s : State) (width : Nat) (off : Int) (v : Word), s.resetLine = false → 0 ≤ off → off < 0x400 →
    let bad : Prop := width ≠ 8 ∨ off % 8 ≠ 0 ∨ (0x0C8 ≤ off ∧ off < 0x100) ∨ (0x188 ≤ off ∧ off < 0x200) ∨
      (0x220 ≤ off ∧ off < 0x300) ∨ 0x328 ≤ off
    (bad ∨ off = 0x300 →
      hostRead width off s = .next { s with responses := .busError off :: s.responses }) ∧
    (¬ (bad ∨ off = 0x300) →
      ∃ x n, hostRead width off s = .next { s with responses := .data x :: s.responses, draws := n }) ∧
    (bad ∨ (0x200 ≤ off ∧ off < 0x220) ∨ off = 0x318 ∨ off = 0x320 →
      hostWrite width off v s = .next { s with responses := .busError off :: s.responses }) ∧
    (¬ (bad ∨ (0x200 ≤ off ∧ off < 0x220) ∨ off = 0x318 ∨ off = 0x320) →
      ∃ t, hostWrite width off v s = .next t ∧ t.responses = .written :: s.responses)

/-- 10_state.md R14 to R18, R25, 20_memory.md R39: what a Host read of each register returns while the engine is idle, and that the
read changes nothing but what the Host has received. D reads 0 while DVALID = 0. -/
def Obligations.IdleReads : Prop :=
  ∀ s : State, s.busy = false → s.resetLine = false →
    (∀ i : Fin 25, hostRead 8 (8 * (i.val : Int)) s = .next { s with responses := .data s.a[i.val] :: s.responses }) ∧
    (∀ j : Fin 17, hostRead 8 (0x100 + 8 * (j.val : Int)) s =
      .next { s with responses := .data s.b[j.val] :: s.responses }) ∧
    (∀ k : Fin 4, hostRead 8 (0x200 + 8 * (k.val : Int)) s =
      .next { s with responses := .data (if s.dvalid then s.d[k.val] else 0) :: s.responses }) ∧
    hostRead 8 0x308 s = .next { s with responses := .data s.status :: s.responses } ∧
    hostRead 8 0x310 s = .next { s with responses := .data (if s.ie then 1 else 0) :: s.responses } ∧
    hostRead 8 0x318 s = .next { s with responses := .data s.blkcnt :: s.responses } ∧
    hostRead 8 0x320 s = .next { s with responses := .data s.rcout :: s.responses }

/-- 70_reset_and_hazards.md R120, 60_exceptions.md R101: what the Host sees and can do between acceptance and completion; the value of a read of A or B is
free; and nothing the Host does changes what the pending command will work on. -/
def Obligations.BusyWindow : Prop :=
  ∀ (s : State) (v : Word), s.busy = true → s.resetLine = false →
    (∀ i : Fin 25, ∃ x n, hostRead 8 (8 * (i.val : Int)) s =
      .next { s with responses := .data x :: s.responses, draws := n }) ∧
    (∀ j : Fin 17, ∃ x n, hostRead 8 (0x100 + 8 * (j.val : Int)) s =
      .next { s with responses := .data x :: s.responses, draws := n }) ∧
    (∀ k : Fin 4, hostRead 8 (0x200 + 8 * (k.val : Int)) s =
      .next { s with responses := .data (if s.dvalid then s.d[k.val] else 0) :: s.responses }) ∧
    hostRead 8 0x318 s = .next { s with responses := .data s.blkcnt :: s.responses } ∧
    hostRead 8 0x320 s = .next { s with responses := .data s.rcout :: s.responses } ∧
    hostRead 8 0x308 s = .next { s with responses := .data s.status :: s.responses } ∧ s.status.getLsbD 0 = true ∧
    hostRead 8 0x310 s = .next { s with responses := .data (if s.ie then 1 else 0) :: s.responses } ∧
    (∀ off : Int, off = 0x300 ∨ (∃ i : Fin 25, off = 8 * (i.val : Int)) ∨ (∃ j : Fin 17, off = 0x100 + 8 * (j.val : Int)) →
      hostWrite 8 off v s =
        .next { s with err := if s.err = 0 then 4 else s.err, responses := .written :: s.responses }) ∧
    hostWrite 8 0x308 v s = .next { s with
      done := s.done && !v.getLsbD 1, err := if v.getLsbD 15 then 0 else s.err, responses := .written :: s.responses } ∧
    hostWrite 8 0x310 v s = .next { s with ie := v.getLsbD 0, responses := .written :: s.responses } ∧
    ∀ (e : Event) (t : State), e ≠ .assertReset → takeEvent e s = .next t →
      t.a = s.a ∧ t.b = s.b ∧ t.d = s.d ∧ t.rcout = s.rcout ∧ t.blkcnt = s.blkcnt ∧ t.dvalid = s.dvalid ∧ t.pend = s.pend ∧
        t.busy = true

/-- 20_memory.md R39, R43: on an idle engine a read of a register returns what the last write of A[i] or B[j] left there, and a write
of another register leaves it alone. -/
def Obligations.ReadAfterWrite : Prop :=
  ∀ (s : State) (r r' : Reg) (v : Word), s.busy = false → s.resetLine = false →
    ((∃ i, r = .a i) ∨ ∃ j, r = .b j) → r'.readable = true →
    ∃ t u, hostWrite 8 (r.offset : Int) v s = .next t ∧ hostRead 8 (r'.offset : Int) t = .next u ∧
      u.responses = .data (if r' = r then v else readValue s r') :: .written :: s.responses

/-- 10_state.md R20: the bits of the STATUS word, its reset value, and a Host write of it, BUSY or not. -/
def Obligations.StatusRegister : Prop :=
  (∀ (s : State) (k : Nat), s.status.getLsbD k =
    if k = 0 then s.busy else if k = 1 then s.done else if k = 2 then s.dvalid
    else if 8 ≤ k ∧ k ≤ 11 then s.err.getLsbD (k - 8) else false) ∧
  State.reset.status = 0 ∧
  ∀ (s : State) (v : Word), s.resetLine = false →
    hostWrite 8 0x308 v s = .next { s with
      done := if v.getLsbD 1 then false else s.done, err := if v.getLsbD 15 then 0 else s.err,
      responses := .written :: s.responses }

/-- 10_state.md R25: the bits of the CTRL word, its reset value, a Host write of it, BUSY or not, and that INIT keeps it. -/
def Obligations.CtrlRegister : Prop :=
  (∀ (s : State) (k : Nat), s.ctrl.getLsbD k = (decide (k = 0) && s.ie)) ∧
  State.reset.ctrl = 0 ∧
  (∀ (s : State) (v : Word), s.resetLine = false →
    hostWrite 8 0x310 v s = .next { s with ie := v.getLsbD 0, responses := .written :: s.responses }) ∧
  ∀ s : State, ∃ t, exec .init s = .next t ∧ t.ctrl = s.ctrl

/-- 10_state.md R26, 60_exceptions.md R108: irq is the level CTRL.IE ∧ STATUS.DONE, 0 at reset; setting IE while DONE = 1 raises it at
once, clearing IE lowers it and leaves DONE, and clearing DONE lowers it. -/
def Obligations.InterruptLine : Prop :=
  (∀ s : State, s.irq = (s.ctrl.getLsbD 0 && s.status.getLsbD 1)) ∧ State.reset.irq = false ∧
  ∀ s : State, s.resetLine = false →
    (∃ t, hostWrite 8 0x310 1 s = .next t ∧ t.irq = s.done) ∧
    (∃ t, hostWrite 8 0x310 0 s = .next t ∧ t.irq = false ∧ t.done = s.done) ∧
    ∃ t, hostWrite 8 0x308 2 s = .next t ∧ t.irq = false

/-- 70_reset_and_hazards.md R116 (U4), 20_memory.md R48 (U5): an access while reset is asserted and an access outside the window are
refused by name. -/
def Obligations.RefusedAccesses : Prop :=
  ∀ (s : State) (width : Nat) (off : Int) (v : Word),
    (s.resetLine = true → hostRead width off s = .refused .accessDuringReset ∧
      hostWrite width off v s = .refused .accessDuringReset) ∧
    (s.resetLine = false → off < 0 ∨ 0x400 ≤ off →
      hostRead width off s = .refused (.accessOutsideWindow off) ∧
      hostWrite width off v s = .refused (.accessOutsideWindow off))

/-! ## Reset and the whole machine -/

/-- 70_reset_and_hazards.md R116: every value after reset, from any state and with a command in flight abandoned; the same once reset
is released; and a completed INIT with IE = 0 and DONE cleared gives the same registers. What the Host has received, the inputs to
come and the draw counter are not the engine's state and stay. -/
def Obligations.ResetValues : Prop :=
  (State.reset.a = Vector.replicate 25 0 ∧ State.reset.b = Vector.replicate 17 0 ∧ State.reset.d = Vector.replicate 4 0 ∧
    State.reset.rcout = 0 ∧ State.reset.blkcnt = 0 ∧ State.reset.busy = false ∧ State.reset.done = false ∧
    State.reset.dvalid = false ∧ State.reset.err = 0 ∧ State.reset.ie = false ∧ State.reset.irq = false ∧
    State.reset.lfsr = 0x01 ∧ State.reset.pend = none ∧ State.reset.roundCtr = none) ∧
  (∀ s : State, ∃ t u, takeEvent .assertReset s = .next t ∧ takeEvent .releaseReset t = .next u ∧
    t = { State.reset with
          resetLine := true, events := s.events, responses := s.responses, draws := s.draws, delay := t.delay } ∧
    u = { t with resetLine := false }) ∧
  ∀ s : State, s.busy = true → s.ie = false →
    ∃ t, exec .init s = .next t ∧ ({ t with done := false } : State).observe = State.reset.observe

/-- The invariant of Safety.lean holds at reset. -/
def Obligations.InvariantAtReset : Prop := State.reset.Inv

/-- The invariant is kept by every step (10_state.md R16, R24, R28, R29; 70_reset_and_hazards.md R116, R118): PEND holds an admissible
word exactly while BUSY = 1, the round counter is below 24 and only while BUSY = 1, ERR holds a defined code, D is 0 while DVALID = 0,
and the registers keep their reset values while reset is asserted. -/
def Obligations.InvariantKeptByEveryStep : Prop :=
  ∀ s t : State, s.Inv → step s = .next t → t.Inv

/-- The machine never stops with a fault, and stops with a refusal only at the two accesses the spec excludes (R48, R116). -/
def Obligations.NoFaultFromTheInvariant : Prop :=
  ∀ s : State, s.Inv →
    (∀ f, step s ≠ .fault f) ∧
    ∀ r, step s = .refused r →
      (r = .accessDuringReset ∧ s.resetLine = true) ∨ ∃ off : Int, r = .accessOutsideWindow off ∧ (off < 0 ∨ 0x400 ≤ off)

/-- A step runs the decoded command: the Engine's step is exec of the pending command; a Host write of a command's word to CMD on an
idle engine is exec of it, after the write has left the list and the Host has its response; and so for a word placed by
withFetchWord (10_state.md R31, 20_memory.md R46; log entries 13, 14). -/
def Obligations.StepRunsTheDecodedCommand : Prop :=
  (∀ (s : State) (v : Word) (i : Instr), s.busy = true → (s.events = [] ∨ s.delay = 0) → s.pend = some v →
    decode v = .ok i → step s = exec i s) ∧
  (∀ (s : State) (v : Word) (i : Instr) (rest : List Event), s.busy = false → s.resetLine = false →
    s.events = .write 8 0x300 v :: rest → decode v = .ok i →
    step s = exec i { s with events := rest, delay := s.delay - 1, responses := .written :: s.responses }) ∧
  ∀ (s : State) (nbits w : Nat) (i : Instr), decodeTableWord nbits w = some i →
    step (s.withFetchWord nbits w) = exec i
      { s with
        busy := false, pend := none, roundCtr := none, resetLine := false, delay := s.delay - 1,
        responses := .written :: s.responses }

/-- 10_state.md R21, 70_reset_and_hazards.md R122: BUSY becomes 1 only when the Engine accepts the command a Host write of CMD
submits, and becomes 0 only when the pending command completes or reset abandons it. -/
def Obligations.BusyChangesOnlyByLifecycle : Prop :=
  State.reset.busy = false ∧
  ∀ s t : State, s.Inv → step s = .next t →
    (s.busy = false → t.busy = true →
      ∃ i, s.events.head? = some (.write 8 0x300 (encode i)) ∧ t.pend = some (encode i) ∧ t.done = s.done ∧ t.err = s.err) ∧
    (s.busy = true → t.busy = false →
      ((s.events = [] ∨ s.delay = 0) ∧ t.done = true ∧ t.pend = none) ∨ s.events.head? = some .assertReset)

/-- 10_state.md R22: DONE becomes 1 only at a completion or at a rejected CMD write, every completion sets it, and only a STATUS write
with bit 1 set and reset clear it. -/
def Obligations.DoneChangesOnlyByLifecycle : Prop :=
  ∀ s t : State, s.Inv → step s = .next t →
    (s.busy = true → (s.events = [] ∨ s.delay = 0) → t.done = true) ∧
    (s.done = false → t.done = true →
      (s.busy = true ∧ t.busy = false ∧ (s.events = [] ∨ s.delay = 0)) ∨
      (s.busy = false ∧ t.busy = false ∧ t.err ≠ 0 ∧ ∃ v, s.events.head? = some (.write 8 0x300 v))) ∧
    (s.done = true → t.done = false →
      (∃ v, s.events.head? = some (.write 8 0x308 v) ∧ v.getLsbD 1 = true) ∨ s.events.head? = some .assertReset)

/-- 10_state.md R24, 60_exceptions.md R98: ERR takes a code only when it was 0, and only at a CMD, A or B write; it becomes 0 only at a
STATUS write with bit 15 set, at the completion of INIT, or at reset. -/
def Obligations.ErrKeepsTheFirstError : Prop :=
  ∀ s t : State, s.Inv → step s = .next t → t.err ≠ s.err →
    (s.err = 0 ∧ 1 ≤ t.err.toNat ∧ t.err.toNat ≤ 4 ∧
      ∃ off v, s.events.head? = some (.write 8 off v) ∧ (off = 0x300 ∨ (0 ≤ off ∧ off < 0x188))) ∨
    (t.err = 0 ∧
      ((∃ v, s.events.head? = some (.write 8 0x308 v) ∧ v.getLsbD 15 = true) ∨
       (s.pend = some (encode .init) ∧ s.busy = true ∧ t.busy = false) ∨ s.events.head? = some .assertReset))

/-- 10_state.md R16, R23: only the completion of FINAL latches D (from A[0..3]) and enters phase SQUEEZED; only INIT and reset clear D
and leave the phase. -/
def Obligations.DigestAndPhaseChangeOnlyBy : Prop :=
  ∀ s t : State, s.Inv → step s = .next t → (t.d ≠ s.d ∨ t.dvalid ≠ s.dvalid) →
    (∃ n, s.pend = some (encode (.final n)) ∧ s.dvalid = false ∧ t.busy = false ∧ t.dvalid = true ∧
      ∀ k : Fin 4, t.d[k.val] = t.a[k.val]) ∨
    (t.dvalid = false ∧ t.d = Vector.replicate 4 0 ∧
      ((s.pend = some (encode .init) ∧ t.busy = false) ∨ s.events.head? = some .assertReset))

/-- 10_state.md R15, R17, R18: who changes B, RCOUT and BLKCNT, and by how much BLKCNT grows. -/
def Obligations.BufferAndCountersChangeOnlyBy : Prop :=
  ∀ s t : State, s.Inv → step s = .next t →
    (t.b ≠ s.b →
      (∃ (j : Fin 17) (v : Word), s.busy = false ∧ s.events.head? = some (.write 8 (0x100 + 8 * (j.val : Int)) v) ∧
        t.b = s.b.set j.val v) ∨
      (t.b = Vector.replicate 17 0 ∧
        ((s.pend = some (encode .init) ∧ t.busy = false) ∨ s.events.head? = some .assertReset))) ∧
    (t.rcout ≠ s.rcout →
      (∃ r : BitVec 5, s.pend = some (encode (.rcgen r)) ∧ r.toNat ≤ 23 ∧ t.busy = false ∧ t.rcout = roundConstant r.toNat) ∨
      (t.rcout = 0 ∧ ((s.pend = some (encode .init) ∧ t.busy = false) ∨ s.events.head? = some .assertReset))) ∧
    (t.blkcnt ≠ s.blkcnt →
      (s.pend = some (encode .absorb) ∧ t.busy = false ∧ t.blkcnt = s.blkcnt + 1) ∨
      (∃ n, s.pend = some (encode (.final n)) ∧ t.busy = false ∧
        t.blkcnt = s.blkcnt + (if n.toNat = 1087 then 2 else 1)) ∨
      (t.blkcnt = 0 ∧ ((s.pend = some (encode .init) ∧ t.busy = false) ∨ s.events.head? = some .assertReset)))

/-- 70_reset_and_hazards.md R124, R122: every accepted command completes, after finitely many steps, whatever the Host does inside the
window meanwhile. The bound delay + 1 is the model's: the delay counts inputs within the busy window (log entry 3, DESIGN CHOICE), and
with no input left the completion is next (log entry 5, DEDUCED from R123). -/
def Obligations.EveryAcceptedCommandCompletes : Prop :=
  ∀ s : State, s.Inv → s.busy = true →
    (∀ e ∈ s.events, e ≠ .assertReset ∧
      ∀ width off v, e = .read width off ∨ e = .write width off v → 0 ≤ off ∧ off < 0x400) →
    ∃ k t, k ≤ s.delay + 1 ∧ Sys2Proof.core.run k s = .next t ∧ t.busy = false ∧ t.done = true ∧ t.pend = none

/-- 70_reset_and_hazards.md R124, 30_encoding.md R55: a Host that waits with WAIT finds the pending command's own result, the same
registers for every length of the busy window. The input wait, one STATUS read a step, and the bound delay + 2 are the model's (log
entries 21 and 3, both DESIGN CHOICE). -/
def Obligations.WaitMakesTimingInvisible : Prop :=
  ∀ (s u : State) (rest : List Event), s.Inv → s.busy = true → s.events = .wait :: rest → engineStep s = .next u →
    ∃ k t, k ≤ s.delay + 2 ∧ Sys2Proof.core.run k s = .next t ∧ t.events = rest ∧ t.busy = false ∧ t.observe = u.observe
end

