-- ==== Sys2Proof/Laws/HostProgram.lean ====
section
/-! SUPPORT. What the assembler refuses and what it never refuses (30_encoding.md R55). -/

namespace Sys2Proof.Machine

/-! ### Expansions -/

@[simp] theorem inOrder_nil : inOrder [] = some [] := rfl

@[simp] theorem inOrder_some (es : List Event) (rest : List (Option (List Event))) :
    inOrder (some es :: rest) = (inOrder rest).map (es ++ ·) := rfl

@[simp] theorem inOrder_none (rest : List (Option (List Event))) : inOrder (none :: rest) = none := rfl

/-- A sequence assembles exactly when each of its parts does. -/
theorem inOrder_isSome (parts : List (Option (List Event))) : (inOrder parts).isSome = parts.all Option.isSome := by
  induction parts with
  | nil => rfl
  | cons p rest ih => cases p <;> simp [ih]

/-- EXEC of a well-formed command is its CMD write and a WAIT. -/
theorem pseudoExec_of_wellFormed {i : Instr} (h : i.WellFormed) :
    pseudoExec i = some [writeOf .cmd (encode i), .wait] := by
  simp [pseudoExec, assemble, show i.wellFormed = true from h, pseudoWait]

/-- EXEC of a command whose operand is out of range is refused. -/
theorem pseudoExec_of_not_wellFormed {i : Instr} (h : ¬ i.WellFormed) : pseudoExec i = none := by
  simp [pseudoExec, assemble, show i.wellFormed = false by simpa using h]

/-- A FINAL of fewer than 1088 bits is well-formed. -/
theorem final_wellFormed {n : Nat} (h : n < 1088) : (Instr.final (BitVec.ofNat 11 n)).WellFormed := by
  simp [Instr.WellFormed, Instr.wellFormed]
  omega

/-- LOADBLK takes exactly the messages of at most 136 bytes. -/
theorem pseudoLoadBlk_isSome (m : List Byte) : (pseudoLoadBlk m).isSome = decide (m.length ≤ 136) := by
  unfold pseudoLoadBlk
  split <;> simp [*]

/-- A block load of bits takes exactly the strings of at most 1088 bits. -/
theorem loadBits_isSome (bits : List Bool) : (loadBits bits).isSome = decide (bits.length ≤ 1088) := by
  unfold loadBits
  split <;> simp [*]

theorem hashBlocks_isSome (k : Nat) (m : List Byte) (h : m.length / 136 = k) : (hashBlocks k m).isSome = true := by
  induction k generalizing m with
  | zero =>
    have hm : m.length < 136 := by omega
    simp [hashBlocks, inOrder_isSome, pseudoLoadBlk_isSome, pseudoExec_of_wellFormed (final_wellFormed (n := 8 * m.length) (by omega)),
      hm.le]
  | succ k ih =>
    simp [hashBlocks, inOrder_isSome, pseudoLoadBlk_isSome, pseudoExec_of_wellFormed (i := .absorb) rfl,
      ih (m.drop 136) (by rw [List.length_drop]; omega)]

theorem hashBitBlocks_isSome (k : Nat) (M : List Bool) (h : M.length / 1088 = k) : (hashBitBlocks k M).isSome = true := by
  induction k generalizing M with
  | zero =>
    have hM : M.length < 1088 := by omega
    simp [hashBitBlocks, inOrder_isSome, loadBits_isSome, pseudoExec_of_wellFormed (final_wellFormed hM), hM.le]
  | succ k ih =>
    simp [hashBitBlocks, inOrder_isSome, loadBits_isSome, pseudoExec_of_wellFormed (i := .absorb) rfl,
      ih (M.drop 1088) (by rw [List.length_drop]; omega)]

/-- HASH refuses no message. -/
theorem pseudoHash_isSome (m : List Byte) : (pseudoHash m).isSome = true := by
  simp [pseudoHash, inOrder_isSome, hashBlocks_isSome _ m rfl, pseudoExec_of_wellFormed (i := .init) rfl]

/-- R95's program exists for every message of bits. -/
theorem hashBits_isSome (M : List Bool) : (hashBits M).isSome = true := by
  simp [hashBits, inOrder_isSome, hashBitBlocks_isSome _ M rfl, pseudoExec_of_wellFormed (i := .init) rfl]

/-! ### Text -/

/-- Each of R55's names of a register names that register. -/
theorem regNamed_of_mem : ∀ p ∈ registerNames, regNamed p.1 = some p.2 := by decide +kernel

/-- Nothing but R55's names names a register. -/
theorem mem_of_regNamed {text : List Char} {r : Reg} (h : regNamed text = some r) : (text, r) ∈ registerNames := by
  obtain ⟨_, _, hl, _⟩ := List.lookup_eq_some_iff.1 h
  simp [hl]

/-- A command statement that assembles from text is well-formed. -/
theorem commandNamed_wellFormed {words : List (List Char)} {i : Instr} (h : commandNamed words = some i) : i.WellFormed := by
  unfold commandNamed at h
  split at h
  · repeat' split at h
    all_goals cases h
    all_goals rfl
  · repeat' split at h
    all_goals try cases h
    all_goals
      obtain ⟨n, -, rfl⟩ := Option.map_eq_some_iff.1 h
      simp [Instr.WellFormed, Instr.wellFormed]
      omega
  · cases h

end Sys2Proof.Machine
end

