-- ==== Sys2Proof/Laws/State.lean ====
section
/-! SUPPORT. One lemma per field per update of State: what each named update leaves in every field. -/

namespace Sys2Proof.Machine

/-! ### respond -/

@[simp] theorem respond_a (r : BusResponse) (s : State) : (respond r s).a = s.a := rfl
@[simp] theorem respond_b (r : BusResponse) (s : State) : (respond r s).b = s.b := rfl
@[simp] theorem respond_d (r : BusResponse) (s : State) : (respond r s).d = s.d := rfl
@[simp] theorem respond_rcout (r : BusResponse) (s : State) : (respond r s).rcout = s.rcout := rfl
@[simp] theorem respond_blkcnt (r : BusResponse) (s : State) : (respond r s).blkcnt = s.blkcnt := rfl
@[simp] theorem respond_busy (r : BusResponse) (s : State) : (respond r s).busy = s.busy := rfl
@[simp] theorem respond_done (r : BusResponse) (s : State) : (respond r s).done = s.done := rfl
@[simp] theorem respond_dvalid (r : BusResponse) (s : State) : (respond r s).dvalid = s.dvalid := rfl
@[simp] theorem respond_err (r : BusResponse) (s : State) : (respond r s).err = s.err := rfl
@[simp] theorem respond_ie (r : BusResponse) (s : State) : (respond r s).ie = s.ie := rfl
@[simp] theorem respond_lfsr (r : BusResponse) (s : State) : (respond r s).lfsr = s.lfsr := rfl
@[simp] theorem respond_pend (r : BusResponse) (s : State) : (respond r s).pend = s.pend := rfl
@[simp] theorem respond_roundCtr (r : BusResponse) (s : State) : (respond r s).roundCtr = s.roundCtr := rfl
@[simp] theorem respond_resetLine (r : BusResponse) (s : State) : (respond r s).resetLine = s.resetLine := rfl
@[simp] theorem respond_events (r : BusResponse) (s : State) : (respond r s).events = s.events := rfl
@[simp] theorem respond_responses (r : BusResponse) (s : State) : (respond r s).responses = r :: s.responses := rfl
@[simp] theorem respond_delay (r : BusResponse) (s : State) : (respond r s).delay = s.delay := rfl
@[simp] theorem respond_draws (r : BusResponse) (s : State) : (respond r s).draws = s.draws := rfl

/-! ### writeStatus -/

@[simp] theorem writeStatus_a (v : Word) (s : State) : (writeStatus v s).a = s.a := rfl
@[simp] theorem writeStatus_b (v : Word) (s : State) : (writeStatus v s).b = s.b := rfl
@[simp] theorem writeStatus_d (v : Word) (s : State) : (writeStatus v s).d = s.d := rfl
@[simp] theorem writeStatus_rcout (v : Word) (s : State) : (writeStatus v s).rcout = s.rcout := rfl
@[simp] theorem writeStatus_blkcnt (v : Word) (s : State) : (writeStatus v s).blkcnt = s.blkcnt := rfl
@[simp] theorem writeStatus_busy (v : Word) (s : State) : (writeStatus v s).busy = s.busy := rfl
@[simp] theorem writeStatus_done (v : Word) (s : State) : (writeStatus v s).done = if v.getLsbD 1 then false else s.done := rfl
@[simp] theorem writeStatus_dvalid (v : Word) (s : State) : (writeStatus v s).dvalid = s.dvalid := rfl
@[simp] theorem writeStatus_err (v : Word) (s : State) : (writeStatus v s).err = if v.getLsbD 15 then 0 else s.err := rfl
@[simp] theorem writeStatus_ie (v : Word) (s : State) : (writeStatus v s).ie = s.ie := rfl
@[simp] theorem writeStatus_lfsr (v : Word) (s : State) : (writeStatus v s).lfsr = s.lfsr := rfl
@[simp] theorem writeStatus_pend (v : Word) (s : State) : (writeStatus v s).pend = s.pend := rfl
@[simp] theorem writeStatus_roundCtr (v : Word) (s : State) : (writeStatus v s).roundCtr = s.roundCtr := rfl
@[simp] theorem writeStatus_resetLine (v : Word) (s : State) : (writeStatus v s).resetLine = s.resetLine := rfl
@[simp] theorem writeStatus_events (v : Word) (s : State) : (writeStatus v s).events = s.events := rfl
@[simp] theorem writeStatus_responses (v : Word) (s : State) : (writeStatus v s).responses = s.responses := rfl
@[simp] theorem writeStatus_delay (v : Word) (s : State) : (writeStatus v s).delay = s.delay := rfl
@[simp] theorem writeStatus_draws (v : Word) (s : State) : (writeStatus v s).draws = s.draws := rfl

/-! ### writeCtrl -/

@[simp] theorem writeCtrl_a (v : Word) (s : State) : (writeCtrl v s).a = s.a := rfl
@[simp] theorem writeCtrl_b (v : Word) (s : State) : (writeCtrl v s).b = s.b := rfl
@[simp] theorem writeCtrl_d (v : Word) (s : State) : (writeCtrl v s).d = s.d := rfl
@[simp] theorem writeCtrl_rcout (v : Word) (s : State) : (writeCtrl v s).rcout = s.rcout := rfl
@[simp] theorem writeCtrl_blkcnt (v : Word) (s : State) : (writeCtrl v s).blkcnt = s.blkcnt := rfl
@[simp] theorem writeCtrl_busy (v : Word) (s : State) : (writeCtrl v s).busy = s.busy := rfl
@[simp] theorem writeCtrl_done (v : Word) (s : State) : (writeCtrl v s).done = s.done := rfl
@[simp] theorem writeCtrl_dvalid (v : Word) (s : State) : (writeCtrl v s).dvalid = s.dvalid := rfl
@[simp] theorem writeCtrl_err (v : Word) (s : State) : (writeCtrl v s).err = s.err := rfl
@[simp] theorem writeCtrl_ie (v : Word) (s : State) : (writeCtrl v s).ie = v.getLsbD 0 := rfl
@[simp] theorem writeCtrl_lfsr (v : Word) (s : State) : (writeCtrl v s).lfsr = s.lfsr := rfl
@[simp] theorem writeCtrl_pend (v : Word) (s : State) : (writeCtrl v s).pend = s.pend := rfl
@[simp] theorem writeCtrl_roundCtr (v : Word) (s : State) : (writeCtrl v s).roundCtr = s.roundCtr := rfl
@[simp] theorem writeCtrl_resetLine (v : Word) (s : State) : (writeCtrl v s).resetLine = s.resetLine := rfl
@[simp] theorem writeCtrl_events (v : Word) (s : State) : (writeCtrl v s).events = s.events := rfl
@[simp] theorem writeCtrl_responses (v : Word) (s : State) : (writeCtrl v s).responses = s.responses := rfl
@[simp] theorem writeCtrl_delay (v : Word) (s : State) : (writeCtrl v s).delay = s.delay := rfl
@[simp] theorem writeCtrl_draws (v : Word) (s : State) : (writeCtrl v s).draws = s.draws := rfl

/-! ### recordError -/

@[simp] theorem recordError_a (e : CmdError) (s : State) : (recordError e s).a = s.a := rfl
@[simp] theorem recordError_b (e : CmdError) (s : State) : (recordError e s).b = s.b := rfl
@[simp] theorem recordError_d (e : CmdError) (s : State) : (recordError e s).d = s.d := rfl
@[simp] theorem recordError_rcout (e : CmdError) (s : State) : (recordError e s).rcout = s.rcout := rfl
@[simp] theorem recordError_blkcnt (e : CmdError) (s : State) : (recordError e s).blkcnt = s.blkcnt := rfl
@[simp] theorem recordError_busy (e : CmdError) (s : State) : (recordError e s).busy = s.busy := rfl
@[simp] theorem recordError_done (e : CmdError) (s : State) : (recordError e s).done = s.done := rfl
@[simp] theorem recordError_dvalid (e : CmdError) (s : State) : (recordError e s).dvalid = s.dvalid := rfl
@[simp] theorem recordError_err (e : CmdError) (s : State) : (recordError e s).err = if s.err = 0 then e.code else s.err := rfl
@[simp] theorem recordError_ie (e : CmdError) (s : State) : (recordError e s).ie = s.ie := rfl
@[simp] theorem recordError_lfsr (e : CmdError) (s : State) : (recordError e s).lfsr = s.lfsr := rfl
@[simp] theorem recordError_pend (e : CmdError) (s : State) : (recordError e s).pend = s.pend := rfl
@[simp] theorem recordError_roundCtr (e : CmdError) (s : State) : (recordError e s).roundCtr = s.roundCtr := rfl
@[simp] theorem recordError_resetLine (e : CmdError) (s : State) : (recordError e s).resetLine = s.resetLine := rfl
@[simp] theorem recordError_events (e : CmdError) (s : State) : (recordError e s).events = s.events := rfl
@[simp] theorem recordError_responses (e : CmdError) (s : State) : (recordError e s).responses = s.responses := rfl
@[simp] theorem recordError_delay (e : CmdError) (s : State) : (recordError e s).delay = s.delay := rfl
@[simp] theorem recordError_draws (e : CmdError) (s : State) : (recordError e s).draws = s.draws := rfl

/-! ### rejectCommand -/

@[simp] theorem rejectCommand_a (e : CmdError) (s : State) : (rejectCommand e s).a = s.a := rfl
@[simp] theorem rejectCommand_b (e : CmdError) (s : State) : (rejectCommand e s).b = s.b := rfl
@[simp] theorem rejectCommand_d (e : CmdError) (s : State) : (rejectCommand e s).d = s.d := rfl
@[simp] theorem rejectCommand_rcout (e : CmdError) (s : State) : (rejectCommand e s).rcout = s.rcout := rfl
@[simp] theorem rejectCommand_blkcnt (e : CmdError) (s : State) : (rejectCommand e s).blkcnt = s.blkcnt := rfl
@[simp] theorem rejectCommand_busy (e : CmdError) (s : State) : (rejectCommand e s).busy = s.busy := rfl
@[simp] theorem rejectCommand_done (e : CmdError) (s : State) : (rejectCommand e s).done = true := rfl
@[simp] theorem rejectCommand_dvalid (e : CmdError) (s : State) : (rejectCommand e s).dvalid = s.dvalid := rfl
@[simp] theorem rejectCommand_err (e : CmdError) (s : State) : (rejectCommand e s).err = if s.err = 0 then e.code else s.err := rfl
@[simp] theorem rejectCommand_ie (e : CmdError) (s : State) : (rejectCommand e s).ie = s.ie := rfl
@[simp] theorem rejectCommand_lfsr (e : CmdError) (s : State) : (rejectCommand e s).lfsr = s.lfsr := rfl
@[simp] theorem rejectCommand_pend (e : CmdError) (s : State) : (rejectCommand e s).pend = s.pend := rfl
@[simp] theorem rejectCommand_roundCtr (e : CmdError) (s : State) : (rejectCommand e s).roundCtr = s.roundCtr := rfl
@[simp] theorem rejectCommand_resetLine (e : CmdError) (s : State) : (rejectCommand e s).resetLine = s.resetLine := rfl
@[simp] theorem rejectCommand_events (e : CmdError) (s : State) : (rejectCommand e s).events = s.events := rfl
@[simp] theorem rejectCommand_responses (e : CmdError) (s : State) : (rejectCommand e s).responses = s.responses := rfl
@[simp] theorem rejectCommand_delay (e : CmdError) (s : State) : (rejectCommand e s).delay = s.delay := rfl
@[simp] theorem rejectCommand_draws (e : CmdError) (s : State) : (rejectCommand e s).draws = s.draws := rfl

/-! ### busyDrop -/

@[simp] theorem busyDrop_a (s : State) : (busyDrop s).a = s.a := rfl
@[simp] theorem busyDrop_b (s : State) : (busyDrop s).b = s.b := rfl
@[simp] theorem busyDrop_d (s : State) : (busyDrop s).d = s.d := rfl
@[simp] theorem busyDrop_rcout (s : State) : (busyDrop s).rcout = s.rcout := rfl
@[simp] theorem busyDrop_blkcnt (s : State) : (busyDrop s).blkcnt = s.blkcnt := rfl
@[simp] theorem busyDrop_busy (s : State) : (busyDrop s).busy = s.busy := rfl
@[simp] theorem busyDrop_done (s : State) : (busyDrop s).done = s.done := rfl
@[simp] theorem busyDrop_dvalid (s : State) : (busyDrop s).dvalid = s.dvalid := rfl
@[simp] theorem busyDrop_err (s : State) : (busyDrop s).err = if s.err = 0 then 4 else s.err := rfl
@[simp] theorem busyDrop_ie (s : State) : (busyDrop s).ie = s.ie := rfl
@[simp] theorem busyDrop_lfsr (s : State) : (busyDrop s).lfsr = s.lfsr := rfl
@[simp] theorem busyDrop_pend (s : State) : (busyDrop s).pend = s.pend := rfl
@[simp] theorem busyDrop_roundCtr (s : State) : (busyDrop s).roundCtr = s.roundCtr := rfl
@[simp] theorem busyDrop_resetLine (s : State) : (busyDrop s).resetLine = s.resetLine := rfl
@[simp] theorem busyDrop_events (s : State) : (busyDrop s).events = s.events := rfl
@[simp] theorem busyDrop_responses (s : State) : (busyDrop s).responses = s.responses := rfl
@[simp] theorem busyDrop_delay (s : State) : (busyDrop s).delay = s.delay := rfl
@[simp] theorem busyDrop_draws (s : State) : (busyDrop s).draws = s.draws := rfl

/-! ### accept -/

@[simp] theorem accept_a (i : Instr) (s : State) : (accept i s).a = s.a := rfl
@[simp] theorem accept_b (i : Instr) (s : State) : (accept i s).b = s.b := rfl
@[simp] theorem accept_d (i : Instr) (s : State) : (accept i s).d = s.d := rfl
@[simp] theorem accept_rcout (i : Instr) (s : State) : (accept i s).rcout = s.rcout := rfl
@[simp] theorem accept_blkcnt (i : Instr) (s : State) : (accept i s).blkcnt = s.blkcnt := rfl
@[simp] theorem accept_busy (i : Instr) (s : State) : (accept i s).busy = true := rfl
@[simp] theorem accept_done (i : Instr) (s : State) : (accept i s).done = s.done := rfl
@[simp] theorem accept_dvalid (i : Instr) (s : State) : (accept i s).dvalid = s.dvalid := rfl
@[simp] theorem accept_err (i : Instr) (s : State) : (accept i s).err = s.err := rfl
@[simp] theorem accept_ie (i : Instr) (s : State) : (accept i s).ie = s.ie := rfl
@[simp] theorem accept_lfsr (i : Instr) (s : State) : (accept i s).lfsr = s.lfsr := rfl
@[simp] theorem accept_pend (i : Instr) (s : State) : (accept i s).pend = some (encode i) := rfl
@[simp] theorem accept_roundCtr (i : Instr) (s : State) : (accept i s).roundCtr = if runsPermutation i then some (Config.roundCount s.draws) else none := rfl
@[simp] theorem accept_resetLine (i : Instr) (s : State) : (accept i s).resetLine = s.resetLine := rfl
@[simp] theorem accept_events (i : Instr) (s : State) : (accept i s).events = s.events := rfl
@[simp] theorem accept_responses (i : Instr) (s : State) : (accept i s).responses = s.responses := rfl
@[simp] theorem accept_delay (i : Instr) (s : State) : (accept i s).delay = Config.inputsWithin s.draws (Config.lat i.opcode) := rfl
@[simp] theorem accept_draws (i : Instr) (s : State) : (accept i s).draws = s.draws + 1 := rfl

/-! ### complete -/

@[simp] theorem complete_a (s : State) : (complete s).a = s.a := rfl
@[simp] theorem complete_b (s : State) : (complete s).b = s.b := rfl
@[simp] theorem complete_d (s : State) : (complete s).d = s.d := rfl
@[simp] theorem complete_rcout (s : State) : (complete s).rcout = s.rcout := rfl
@[simp] theorem complete_blkcnt (s : State) : (complete s).blkcnt = s.blkcnt := rfl
@[simp] theorem complete_busy (s : State) : (complete s).busy = false := rfl
@[simp] theorem complete_done (s : State) : (complete s).done = true := rfl
@[simp] theorem complete_dvalid (s : State) : (complete s).dvalid = s.dvalid := rfl
@[simp] theorem complete_err (s : State) : (complete s).err = s.err := rfl
@[simp] theorem complete_ie (s : State) : (complete s).ie = s.ie := rfl
@[simp] theorem complete_lfsr (s : State) : (complete s).lfsr = s.lfsr := rfl
@[simp] theorem complete_pend (s : State) : (complete s).pend = none := rfl
@[simp] theorem complete_roundCtr (s : State) : (complete s).roundCtr = none := rfl
@[simp] theorem complete_resetLine (s : State) : (complete s).resetLine = s.resetLine := rfl
@[simp] theorem complete_events (s : State) : (complete s).events = s.events := rfl
@[simp] theorem complete_responses (s : State) : (complete s).responses = s.responses := rfl
@[simp] theorem complete_delay (s : State) : (complete s).delay = s.delay := rfl
@[simp] theorem complete_draws (s : State) : (complete s).draws = s.draws := rfl

/-! ### stirLfsr -/

@[simp] theorem stirLfsr_a (s : State) : (stirLfsr s).a = s.a := rfl
@[simp] theorem stirLfsr_b (s : State) : (stirLfsr s).b = s.b := rfl
@[simp] theorem stirLfsr_d (s : State) : (stirLfsr s).d = s.d := rfl
@[simp] theorem stirLfsr_rcout (s : State) : (stirLfsr s).rcout = s.rcout := rfl
@[simp] theorem stirLfsr_blkcnt (s : State) : (stirLfsr s).blkcnt = s.blkcnt := rfl
@[simp] theorem stirLfsr_busy (s : State) : (stirLfsr s).busy = s.busy := rfl
@[simp] theorem stirLfsr_done (s : State) : (stirLfsr s).done = s.done := rfl
@[simp] theorem stirLfsr_dvalid (s : State) : (stirLfsr s).dvalid = s.dvalid := rfl
@[simp] theorem stirLfsr_err (s : State) : (stirLfsr s).err = s.err := rfl
@[simp] theorem stirLfsr_ie (s : State) : (stirLfsr s).ie = s.ie := rfl
@[simp] theorem stirLfsr_lfsr (s : State) : (stirLfsr s).lfsr = Config.lfsrLeft s.draws := rfl
@[simp] theorem stirLfsr_pend (s : State) : (stirLfsr s).pend = s.pend := rfl
@[simp] theorem stirLfsr_roundCtr (s : State) : (stirLfsr s).roundCtr = s.roundCtr := rfl
@[simp] theorem stirLfsr_resetLine (s : State) : (stirLfsr s).resetLine = s.resetLine := rfl
@[simp] theorem stirLfsr_events (s : State) : (stirLfsr s).events = s.events := rfl
@[simp] theorem stirLfsr_responses (s : State) : (stirLfsr s).responses = s.responses := rfl
@[simp] theorem stirLfsr_delay (s : State) : (stirLfsr s).delay = s.delay := rfl
@[simp] theorem stirLfsr_draws (s : State) : (stirLfsr s).draws = s.draws + 1 := rfl

/-! ### absorbBlock -/

@[simp] theorem absorbBlock_a (s : State) (P : Block) : (absorbBlock s P).a = keccakF (xorblock s.a P) := rfl
@[simp] theorem absorbBlock_b (s : State) (P : Block) : (absorbBlock s P).b = s.b := rfl
@[simp] theorem absorbBlock_d (s : State) (P : Block) : (absorbBlock s P).d = s.d := rfl
@[simp] theorem absorbBlock_rcout (s : State) (P : Block) : (absorbBlock s P).rcout = s.rcout := rfl
@[simp] theorem absorbBlock_blkcnt (s : State) (P : Block) : (absorbBlock s P).blkcnt = s.blkcnt + 1 := rfl
@[simp] theorem absorbBlock_busy (s : State) (P : Block) : (absorbBlock s P).busy = s.busy := rfl
@[simp] theorem absorbBlock_done (s : State) (P : Block) : (absorbBlock s P).done = s.done := rfl
@[simp] theorem absorbBlock_dvalid (s : State) (P : Block) : (absorbBlock s P).dvalid = s.dvalid := rfl
@[simp] theorem absorbBlock_err (s : State) (P : Block) : (absorbBlock s P).err = s.err := rfl
@[simp] theorem absorbBlock_ie (s : State) (P : Block) : (absorbBlock s P).ie = s.ie := rfl
@[simp] theorem absorbBlock_lfsr (s : State) (P : Block) : (absorbBlock s P).lfsr = s.lfsr := rfl
@[simp] theorem absorbBlock_pend (s : State) (P : Block) : (absorbBlock s P).pend = s.pend := rfl
@[simp] theorem absorbBlock_roundCtr (s : State) (P : Block) : (absorbBlock s P).roundCtr = s.roundCtr := rfl
@[simp] theorem absorbBlock_resetLine (s : State) (P : Block) : (absorbBlock s P).resetLine = s.resetLine := rfl
@[simp] theorem absorbBlock_events (s : State) (P : Block) : (absorbBlock s P).events = s.events := rfl
@[simp] theorem absorbBlock_responses (s : State) (P : Block) : (absorbBlock s P).responses = s.responses := rfl
@[simp] theorem absorbBlock_delay (s : State) (P : Block) : (absorbBlock s P).delay = s.delay := rfl
@[simp] theorem absorbBlock_draws (s : State) (P : Block) : (absorbBlock s P).draws = s.draws := rfl

/-! ### latchDigest -/

@[simp] theorem latchDigest_a (s : State) : (latchDigest s).a = s.a := rfl
@[simp] theorem latchDigest_b (s : State) : (latchDigest s).b = s.b := rfl
@[simp] theorem latchDigest_d (s : State) : (latchDigest s).d = squeeze s.a := rfl
@[simp] theorem latchDigest_rcout (s : State) : (latchDigest s).rcout = s.rcout := rfl
@[simp] theorem latchDigest_blkcnt (s : State) : (latchDigest s).blkcnt = s.blkcnt := rfl
@[simp] theorem latchDigest_busy (s : State) : (latchDigest s).busy = s.busy := rfl
@[simp] theorem latchDigest_done (s : State) : (latchDigest s).done = s.done := rfl
@[simp] theorem latchDigest_dvalid (s : State) : (latchDigest s).dvalid = true := rfl
@[simp] theorem latchDigest_err (s : State) : (latchDigest s).err = s.err := rfl
@[simp] theorem latchDigest_ie (s : State) : (latchDigest s).ie = s.ie := rfl
@[simp] theorem latchDigest_lfsr (s : State) : (latchDigest s).lfsr = s.lfsr := rfl
@[simp] theorem latchDigest_pend (s : State) : (latchDigest s).pend = s.pend := rfl
@[simp] theorem latchDigest_roundCtr (s : State) : (latchDigest s).roundCtr = s.roundCtr := rfl
@[simp] theorem latchDigest_resetLine (s : State) : (latchDigest s).resetLine = s.resetLine := rfl
@[simp] theorem latchDigest_events (s : State) : (latchDigest s).events = s.events := rfl
@[simp] theorem latchDigest_responses (s : State) : (latchDigest s).responses = s.responses := rfl
@[simp] theorem latchDigest_delay (s : State) : (latchDigest s).delay = s.delay := rfl
@[simp] theorem latchDigest_draws (s : State) : (latchDigest s).draws = s.draws := rfl

/-! ### dropEvent -/

@[simp] theorem dropEvent_a (s : State) : (dropEvent s).a = s.a := rfl
@[simp] theorem dropEvent_b (s : State) : (dropEvent s).b = s.b := rfl
@[simp] theorem dropEvent_d (s : State) : (dropEvent s).d = s.d := rfl
@[simp] theorem dropEvent_rcout (s : State) : (dropEvent s).rcout = s.rcout := rfl
@[simp] theorem dropEvent_blkcnt (s : State) : (dropEvent s).blkcnt = s.blkcnt := rfl
@[simp] theorem dropEvent_busy (s : State) : (dropEvent s).busy = s.busy := rfl
@[simp] theorem dropEvent_done (s : State) : (dropEvent s).done = s.done := rfl
@[simp] theorem dropEvent_dvalid (s : State) : (dropEvent s).dvalid = s.dvalid := rfl
@[simp] theorem dropEvent_err (s : State) : (dropEvent s).err = s.err := rfl
@[simp] theorem dropEvent_ie (s : State) : (dropEvent s).ie = s.ie := rfl
@[simp] theorem dropEvent_lfsr (s : State) : (dropEvent s).lfsr = s.lfsr := rfl
@[simp] theorem dropEvent_pend (s : State) : (dropEvent s).pend = s.pend := rfl
@[simp] theorem dropEvent_roundCtr (s : State) : (dropEvent s).roundCtr = s.roundCtr := rfl
@[simp] theorem dropEvent_resetLine (s : State) : (dropEvent s).resetLine = s.resetLine := rfl
@[simp] theorem dropEvent_events (s : State) : (dropEvent s).events = s.events.tail := rfl
@[simp] theorem dropEvent_responses (s : State) : (dropEvent s).responses = s.responses := rfl
@[simp] theorem dropEvent_delay (s : State) : (dropEvent s).delay = s.delay - 1 := rfl
@[simp] theorem dropEvent_draws (s : State) : (dropEvent s).draws = s.draws := rfl

/-! ### assertReset -/

@[simp] theorem assertReset_a (s : State) : (assertReset s).a = Vector.replicate 25 0 := rfl
@[simp] theorem assertReset_b (s : State) : (assertReset s).b = Vector.replicate 17 0 := rfl
@[simp] theorem assertReset_d (s : State) : (assertReset s).d = Vector.replicate 4 0 := rfl
@[simp] theorem assertReset_rcout (s : State) : (assertReset s).rcout = 0 := rfl
@[simp] theorem assertReset_blkcnt (s : State) : (assertReset s).blkcnt = 0 := rfl
@[simp] theorem assertReset_busy (s : State) : (assertReset s).busy = false := rfl
@[simp] theorem assertReset_done (s : State) : (assertReset s).done = false := rfl
@[simp] theorem assertReset_dvalid (s : State) : (assertReset s).dvalid = false := rfl
@[simp] theorem assertReset_err (s : State) : (assertReset s).err = 0 := rfl
@[simp] theorem assertReset_ie (s : State) : (assertReset s).ie = false := rfl
@[simp] theorem assertReset_lfsr (s : State) : (assertReset s).lfsr = 0x01 := rfl
@[simp] theorem assertReset_pend (s : State) : (assertReset s).pend = none := rfl
@[simp] theorem assertReset_roundCtr (s : State) : (assertReset s).roundCtr = none := rfl
@[simp] theorem assertReset_resetLine (s : State) : (assertReset s).resetLine = true := rfl
@[simp] theorem assertReset_events (s : State) : (assertReset s).events = s.events := rfl
@[simp] theorem assertReset_responses (s : State) : (assertReset s).responses = s.responses := rfl
@[simp] theorem assertReset_delay (s : State) : (assertReset s).delay = 0 := rfl
@[simp] theorem assertReset_draws (s : State) : (assertReset s).draws = s.draws := rfl

/-! ### placeCommand -/

@[simp] theorem placeCommand_a (v : Word) (s : State) : (placeCommand v s).a = s.a := rfl
@[simp] theorem placeCommand_b (v : Word) (s : State) : (placeCommand v s).b = s.b := rfl
@[simp] theorem placeCommand_d (v : Word) (s : State) : (placeCommand v s).d = s.d := rfl
@[simp] theorem placeCommand_rcout (v : Word) (s : State) : (placeCommand v s).rcout = s.rcout := rfl
@[simp] theorem placeCommand_blkcnt (v : Word) (s : State) : (placeCommand v s).blkcnt = s.blkcnt := rfl
@[simp] theorem placeCommand_busy (v : Word) (s : State) : (placeCommand v s).busy = false := rfl
@[simp] theorem placeCommand_done (v : Word) (s : State) : (placeCommand v s).done = s.done := rfl
@[simp] theorem placeCommand_dvalid (v : Word) (s : State) : (placeCommand v s).dvalid = s.dvalid := rfl
@[simp] theorem placeCommand_err (v : Word) (s : State) : (placeCommand v s).err = s.err := rfl
@[simp] theorem placeCommand_ie (v : Word) (s : State) : (placeCommand v s).ie = s.ie := rfl
@[simp] theorem placeCommand_lfsr (v : Word) (s : State) : (placeCommand v s).lfsr = s.lfsr := rfl
@[simp] theorem placeCommand_pend (v : Word) (s : State) : (placeCommand v s).pend = none := rfl
@[simp] theorem placeCommand_roundCtr (v : Word) (s : State) : (placeCommand v s).roundCtr = none := rfl
@[simp] theorem placeCommand_resetLine (v : Word) (s : State) : (placeCommand v s).resetLine = false := rfl
@[simp] theorem placeCommand_events (v : Word) (s : State) : (placeCommand v s).events = .write 8 0x300 v :: s.events := rfl
@[simp] theorem placeCommand_responses (v : Word) (s : State) : (placeCommand v s).responses = s.responses := rfl
@[simp] theorem placeCommand_delay (v : Word) (s : State) : (placeCommand v s).delay = s.delay := rfl
@[simp] theorem placeCommand_draws (v : Word) (s : State) : (placeCommand v s).draws = s.draws := rfl

end Sys2Proof.Machine
end

