-- ==== Sys2Proof/Laws/Ops.lean ====
section
/-! SUPPORT. One spec lemma per shared operation: everything it can do, for later proofs to cite instead of unfolding it. -/

namespace Sys2Proof.Machine

/-! ### The command lifecycle -/

/-- The writes a command makes at its completion. -/
def writesOf : Instr → State → State
  | .nop => fun s => s
  | .init => fun s =>
    { s with
      a := Vector.replicate 25 0, b := Vector.replicate 17 0, d := Vector.replicate 4 0,
      dvalid := false, blkcnt := 0, rcout := 0, err := 0 }
  | .absorb => fun s => stirLfsr (absorbBlock s (blockOf s.b))
  | .final nbits => fun s => stirLfsr (latchDigest ((align (blockOf s.b) nbits.toNat).foldl absorbBlock s))
  | .permute => fun s => stirLfsr { s with a := keccakF s.a }
  | .round ridx => fun s => stirLfsr { s with a := rnd s.a ridx.toNat }
  | .theta => fun s => { s with a := theta s.a }
  | .rho => fun s => { s with a := rho s.a }
  | .pi => fun s => { s with a := pi s.a }
  | .chi => fun s => { s with a := chi s.a }
  | .iota ridx => fun s => stirLfsr { s with a := iota s.a ridx.toNat }
  | .rcgen ridx => fun s => stirLfsr { s with rcout := roundConstant ridx.toNat }

/-- Every command is the shared lifecycle around its own writes. -/
theorem exec_eq (i : Instr) (s : State) : exec i s = runCommand i (writesOf i) s := by
  cases i <;> rfl

/-- The three ends of a command: rejected, accepted at the CMD write, or completed. -/
theorem runCommand_cases (i : Instr) (w : State → State) (s : State) :
    (∃ e, admission i s = some e ∧ runCommand i w s = .next (rejectCommand e s)) ∨
    (admission i s = none ∧ s.busy = false ∧ runCommand i w s = .next (accept i s)) ∨
    (admission i s = none ∧ s.busy = true ∧ runCommand i w s = .next (complete (w s))) := by
  unfold runCommand
  cases admission i s with
  | some e => exact .inl ⟨e, rfl, rfl⟩
  | none => cases hb : s.busy <;> simp

theorem runCommand_rejected {i : Instr} {s : State} {e : CmdError} (w : State → State) (h : admission i s = some e) :
    runCommand i w s = .next (rejectCommand e s) := by
  simp [runCommand, h]

theorem runCommand_accepted {i : Instr} {s : State} (w : State → State) (h : admission i s = none) (hb : s.busy = false) :
    runCommand i w s = .next (accept i s) := by
  simp [runCommand, h, hb]

theorem runCommand_completed {i : Instr} {s : State} (w : State → State) (h : admission i s = none) (hb : s.busy = true) :
    runCommand i w s = .next (complete (w s)) := by
  simp [runCommand, h, hb]

/-- A command never stops the machine. -/
theorem exec_next (i : Instr) (s : State) : ∃ t, exec i s = .next t := by
  rw [exec_eq]
  rcases runCommand_cases i (writesOf i) s with ⟨e, -, h⟩ | ⟨-, -, h⟩ | ⟨-, -, h⟩ <;> exact ⟨_, h⟩

/-! ### Checks -/

/-- The only errors a decoded command meets are BADARG and SEQUENCE. -/
theorem admission_cases (i : Instr) (s : State) :
    admission i s = none ∨ admission i s = some .badarg ∨ admission i s = some .sequence := by
  cases i <;> simp [admission, argCheck, ridxCheck, nbitsCheck, phaseCheck, needsAbsorbing] <;> grind

/-- A command without a phase check is admitted exactly when its operands are in range. -/
theorem admission_of_phase_free {i : Instr} (s : State) (h : needsAbsorbing i = false) : admission i s = argCheck i := by
  cases hi : argCheck i <;> simp [admission, hi, phaseCheck, h]

/-- In phase ABSORBING only the operand ranges matter. -/
theorem admission_of_absorbing (i : Instr) {s : State} (h : s.dvalid = false) : admission i s = argCheck i := by
  cases hi : argCheck i <;> simp [admission, hi, phaseCheck, h]

/-- The engine's range check and the assembler's agree. -/
theorem argCheck_none_iff (i : Instr) : argCheck i = none ↔ i.WellFormed := by
  cases i <;> simp [argCheck, ridxCheck, nbitsCheck, Instr.WellFormed, Instr.wellFormed]

/-- The checks read nothing of the state but the phase. -/
theorem admission_congr (i : Instr) {s t : State} (h : s.dvalid = t.dvalid) : admission i s = admission i t := by
  unfold admission
  cases argCheck i <;> simp [phaseCheck, h]

/-- What R118 accepts depends on the phase alone. -/
theorem admissible_congr (v : Word) {s t : State} (h : s.dvalid = t.dvalid) : admissible v s = admissible v t := by
  unfold admissible
  cases decode v <;> simp [admission_congr _ h]

/-! ### The Host's accesses -/

/-- What a permitted read leaves: a response with the register's value, or with some value for A and B while busy. -/
theorem readReg_cases (r : Reg) (s : State) :
    readReg r s = respond (.data (readValue s r)) s ∨
    (s.busy = true ∧ r.arbitraryWhileBusy = true ∧
      ∃ v, readReg r s = respond (.data v) { s with draws := s.draws + 1 }) := by
  unfold readReg
  by_cases h : (s.busy && r.arbitraryWhileBusy) = true
  · rw [if_pos h]
    simp only [Bool.and_eq_true] at h
    exact .inr ⟨h.1, h.2, _, rfl⟩
  · rw [if_neg h]
    exact .inl rfl

/-- The four ends of a Host write of CMD. -/
theorem submit_cases (v : Word) (s : State) :
    (s.busy = true ∧ submit v s = .next (busyDrop s)) ∨
    (s.busy = false ∧ ∃ e, decode v = .error e ∧ submit v s = .next (rejectCommand .illegal s)) ∨
    (s.busy = false ∧ ∃ i, decode v = .ok i ∧ submit v s = exec i s) := by
  unfold submit
  cases hb : s.busy
  · cases hd : decode v with
    | error e => exact .inr (.inl ⟨rfl, e, rfl, by simp⟩)
    | ok i => exact .inr (.inr ⟨rfl, i, rfl, by simp⟩)
  · exact .inl ⟨rfl, by simp⟩

/-- The ends of a Host bus read. -/
theorem hostRead_cases (width : Nat) (off : Int) (s : State) :
    (s.resetLine = true ∧ hostRead width off s = .refused .accessDuringReset) ∨
    (s.resetLine = false ∧ inWindow off = false ∧ hostRead width off s = .refused (.accessOutsideWindow off)) ∨
    (s.resetLine = false ∧ inWindow off = true ∧ (∀ r, target width off = some r → r.readable = false) ∧
      hostRead width off s = .next (respond (.busError off) s)) ∨
    (s.resetLine = false ∧ inWindow off = true ∧ ∃ r, target width off = some r ∧ r.readable = true ∧
      hostRead width off s = .next (readReg r s)) := by
  unfold hostRead
  cases hr : s.resetLine <;> cases hw : inWindow off <;> simp
  cases ht : target width off with
  | none => simp
  | some r => cases hd : r.readable <;> simp [hd]

/-- The ends of a Host bus write. -/
theorem hostWrite_cases (width : Nat) (off : Int) (v : Word) (s : State) :
    (s.resetLine = true ∧ hostWrite width off v s = .refused .accessDuringReset) ∨
    (s.resetLine = false ∧ inWindow off = false ∧ hostWrite width off v s = .refused (.accessOutsideWindow off)) ∨
    (s.resetLine = false ∧ inWindow off = true ∧ (∀ r, target width off = some r → r.writable = false) ∧
      hostWrite width off v s = .next (respond (.busError off) s)) ∨
    (s.resetLine = false ∧ inWindow off = true ∧ ∃ r, target width off = some r ∧ r.writable = true ∧
      hostWrite width off v s = writeReg r v (respond .written s)) := by
  unfold hostWrite
  cases hr : s.resetLine <;> cases hw : inWindow off <;> simp
  cases ht : target width off with
  | none => simp
  | some r => cases hd : r.writable <;> simp [hd]

/-- An access that reaches a register is 8 bytes wide. -/
theorem target_some {width : Nat} {off : Int} {r : Reg} (h : target width off = some r) :
    width = 8 ∧ regAt off.toNat = some r := by
  unfold target at h
  split at h
  · exact ⟨‹_›, h⟩
  · simp at h

/-- An access that reaches a register names that register's own offset. -/
theorem regAt_some {off : Nat} {r : Reg} (h : regAt off = some r) : off = r.offset := by
  unfold regAt at h
  repeat' split at h
  all_goals first
    | (obtain rfl := Option.some.inj h; simp only [Reg.offset]; omega)
    | cases h

/-- The register of an access inside the window, with the access's width and offset. -/
theorem target_offset {width : Nat} {off : Int} {r : Reg} (hw : inWindow off = true) (h : target width off = some r) :
    width = 8 ∧ off = (r.offset : Int) := by
  obtain ⟨hwidth, hr⟩ := target_some h
  have hoff := regAt_some hr
  simp only [inWindow, Bool.and_eq_true, decide_eq_true_eq] at hw
  exact ⟨hwidth, by omega⟩

/-- What a permitted Host write of a register leaves: a dropped write of A or B, the register's new value, or CMD's submission. -/
theorem writeReg_cases {r : Reg} {v : Word} {s t : State} (hw : r.writable = true) (h : writeReg r v s = .next t) :
    (∃ i : Fin 25, r = .a i ∧ ((s.busy = true ∧ t = busyDrop s) ∨
      (s.busy = false ∧ t = { s with a := s.a.set i.val v }))) ∨
    (∃ j : Fin 17, r = .b j ∧ ((s.busy = true ∧ t = busyDrop s) ∨
      (s.busy = false ∧ t = { s with b := s.b.set j.val v }))) ∨
    (r = .cmd ∧ submit v s = .next t) ∨ (r = .status ∧ t = writeStatus v s) ∨ (r = .ctrl ∧ t = writeCtrl v s) := by
  cases r with
  | a i => cases hb : s.busy <;> simp_all [writeReg]
  | b j => cases hb : s.busy <;> simp_all [writeReg]
  | cmd => simpa [writeReg] using h
  | status =>
    simp only [writeReg, Host.Outcome.next.injEq] at h
    simp [h]
  | ctrl =>
    simp only [writeReg, Host.Outcome.next.injEq] at h
    simp [h]
  | d k => simp [Reg.writable] at hw
  | blkcnt => simp [Reg.writable] at hw
  | rcout => simp [Reg.writable] at hw

/-- What a write of CMD leaves: dropped, rejected with one of the three codes, or accepted with its own word in PEND. -/
theorem submit_next {v : Word} {s t : State} (h : submit v s = .next t) :
    (s.busy = true ∧ t = busyDrop s) ∨
    (s.busy = false ∧ ∃ e, e ≠ .busy ∧ t = rejectCommand e s) ∨
    (s.busy = false ∧ ∃ i, decode v = .ok i ∧ admission i s = none ∧ t = accept i s) := by
  rcases submit_cases v s with ⟨hb, h'⟩ | ⟨hb, e, -, h'⟩ | ⟨hb, i, hi, h'⟩
  · exact .inl ⟨hb, by simpa [h'] using h.symm⟩
  · exact .inr (.inl ⟨hb, .illegal, by decide, by simpa [h'] using h.symm⟩)
  · rw [h', exec_eq] at h
    rcases runCommand_cases i (writesOf i) s with ⟨e, he, hr⟩ | ⟨ha, -, hr⟩ | ⟨-, hb', -⟩
    · refine .inr (.inl ⟨hb, e, ?_, by simpa [hr] using h.symm⟩)
      rcases admission_cases i s with ha | ha | ha <;> simp_all <;> (subst he; decide)
    · exact .inr (.inr ⟨hb, i, hi, ha, by simpa [hr] using h.symm⟩)
    · simp [hb] at hb'

/-- Everything an input can do when the machine goes on: the platform's reset, a bus error, a read, a poll of STATUS, or a write. -/
theorem takeEvent_next {e : Event} {s t : State} (h : takeEvent e s = .next t) :
    (e = .assertReset ∧ t = assertReset s) ∨ (e = .releaseReset ∧ t = releaseReset s) ∨
    (s.resetLine = false ∧
      ((∃ off, t = respond (.busError off) s) ∨
       (∃ width off r, e = .read width off ∧ t = readReg r s) ∨
       (e = .wait ∧ t = respond (.data s.status) (if s.busy then { s with events := .wait :: s.events } else s)) ∨
       (∃ v r, e = .write 8 (r.offset : Int) v ∧ r.writable = true ∧ writeReg r v (respond .written s) = .next t))) := by
  cases e with
  | read width off =>
    simp only [takeEvent] at h
    rcases hostRead_cases width off s with ⟨-, h'⟩ | ⟨-, -, h'⟩ | ⟨hr, -, -, h'⟩ | ⟨hr, -, r, -, -, h'⟩ <;>
      rw [h'] at h <;> cases h
    · exact .inr (.inr ⟨hr, .inl ⟨off, rfl⟩⟩)
    · exact .inr (.inr ⟨hr, .inr (.inl ⟨width, off, r, rfl, rfl⟩)⟩)
  | write width off v =>
    simp only [takeEvent] at h
    rcases hostWrite_cases width off v s with ⟨-, h'⟩ | ⟨-, -, h'⟩ | ⟨hr, -, -, h'⟩ | ⟨hr, hin, r, ht, hw, h'⟩ <;>
      rw [h'] at h
    · cases h
    · cases h
    · cases h
      exact .inr (.inr ⟨hr, .inl ⟨off, rfl⟩⟩)
    · obtain ⟨rfl, rfl⟩ := target_offset hin ht
      exact .inr (.inr ⟨hr, .inr (.inr (.inr ⟨v, r, rfl, hw, h⟩))⟩)
  | wait =>
    have hb : s.status.getLsbD 0 = s.busy := by
      cases h0 : s.busy <;> cases h1 : s.done <;> cases h2 : s.dvalid <;> simp [State.status, flagBit, h0, h1, h2]
    have hin : inWindow 0x308 = true := by decide
    have ht : target 8 0x308 = some .status := by decide
    have hread : ∀ u : State, u.resetLine = false → hostRead 8 0x308 u = .next (respond (.data u.status) u) := by
      intro u hu
      simp [hostRead, hu, hin, ht, Reg.readable, readReg, Reg.arbitraryWhileBusy, readValue]
    simp only [takeEvent, hostWait, hb] at h
    by_cases hr : s.resetLine = true
    · cases hbusy : s.busy <;> simp [hbusy, hostRead, hr] at h
    · simp only [Bool.not_eq_true] at hr
      refine .inr (.inr ⟨hr, .inr (.inr (.inl ⟨rfl, ?_⟩))⟩)
      by_cases hbusy : s.busy = true
      · rw [if_pos hbusy] at h ⊢
        rw [hread { s with events := .wait :: s.events } hr, Host.Outcome.next.injEq] at h
        exact h.symm
      · rw [if_neg hbusy] at h ⊢
        rw [hread s hr, Host.Outcome.next.injEq] at h
        exact h.symm
  | assertReset =>
    simp only [takeEvent, Host.Outcome.next.injEq] at h
    exact .inl ⟨rfl, h.symm⟩
  | releaseReset =>
    simp only [takeEvent, Host.Outcome.next.injEq] at h
    exact .inr (.inl ⟨rfl, h.symm⟩)

/-! ### One step -/

/-- Who moves, and what that says of the state. -/
theorem nextMover_cases (s : State) :
    (nextMover s = .engine ∧ s.busy = true ∧ (s.events = [] ∨ s.delay = 0)) ∨
    (∃ e rest, s.events = e :: rest ∧ nextMover s = .outside e ∧ (s.busy = true → s.delay ≠ 0)) ∨
    (nextMover s = .nobody ∧ s.events = [] ∧ s.busy = false) := by
  unfold nextMover
  cases he : s.events with
  | nil => cases hb : s.busy <;> simp
  | cons e rest =>
    cases hb : s.busy
    · simp
    · by_cases hd : s.delay = 0 <;> simp [hd]

/-- The three kinds of step: the Engine performs the pending command, an input is taken, or nothing moves. -/
theorem step_cases (s : State) :
    (s.busy = true ∧ (s.events = [] ∨ s.delay = 0) ∧ step s = engineStep s) ∨
    (∃ e rest, s.events = e :: rest ∧ (s.busy = true → s.delay ≠ 0) ∧ step s = takeEvent e (dropEvent s)) ∨
    (s.events = [] ∧ s.busy = false ∧ step s = .next s) := by
  rcases nextMover_cases s with ⟨h, hb, hd⟩ | ⟨e, rest, he, h, hd⟩ | ⟨h, he, hb⟩
  · exact .inl ⟨hb, hd, by simp [step, h]⟩
  · exact .inr (.inl ⟨e, rest, he, hd, by simp [step, h]⟩)
  · exact .inr (.inr ⟨he, hb, by simp [step, h]⟩)

/-- The Engine's step performs the command PEND holds, or stops by name. -/
theorem engineStep_cases (s : State) :
    (s.pend = none ∧ engineStep s = .fault .busyWithoutCommand) ∨
    (∃ v, s.pend = some v ∧ (∃ e, decode v = .error e) ∧ engineStep s = .fault .pendingWordIllegal) ∨
    (∃ v i, s.pend = some v ∧ decode v = .ok i ∧ engineStep s = exec i s) := by
  unfold engineStep
  cases hp : s.pend with
  | none => simp
  | some v => cases hd : decode v <;> simp [hd]

/-- What a step of a sound state does when the machine goes on: the pending command completes, an input is taken, or nothing moves. -/
theorem step_next {s t : State} (hI : s.Inv) (h : step s = .next t) :
    (s.busy = true ∧ (s.events = [] ∨ s.delay = 0) ∧ ∃ v i, s.pend = some v ∧ decode v = .ok i ∧
      admission i s = none ∧ t = complete (writesOf i s)) ∨
    (∃ e rest, s.events = e :: rest ∧ (s.busy = true → s.delay ≠ 0) ∧ takeEvent e (dropEvent s) = .next t) ∨
    (s.busy = false ∧ s.events = [] ∧ t = s) := by
  rcases step_cases s with ⟨hb, hd, h'⟩ | ⟨e, rest, he, hd, h'⟩ | ⟨he, hb, h'⟩ <;> rw [h'] at h
  · rcases engineStep_cases s with ⟨-, hf⟩ | ⟨v, -, -, hf⟩ | ⟨v, i, hp, hi, hx⟩
    · simp [hf] at h
    · simp [hf] at h
    · have hadm := hI.pend_admissible v hp
      simp only [admissible, hi, beq_iff_eq] at hadm
      rw [hx, exec_eq, runCommand_completed _ hadm hb, Host.Outcome.next.injEq] at h
      exact .inl ⟨hb, hd, v, i, hp, hi, hadm, h.symm⟩
  · exact .inr (.inl ⟨e, rest, he, hd, h⟩)
  · cases h
    exact .inr (.inr ⟨hb, he, rfl⟩)

end Sys2Proof.Machine
end

