-- ==== Sys2Proof/Laws/PerInstr.lean ====
section
/-! SUPPORT. Facts about each command as syntax, one lemma per constructor. -/

namespace Sys2Proof.Laws.OpcodeByte

/-- The low byte of a command's word is its opcode (30_encoding.md R49, R51). -/
abbrev Statement (i : Instr) : Prop := opField (encode i) = i.opcode

/-- A field placed at bit 8 or above does not reach the low byte. -/
theorem opField_or_shift (op : BitVec 8) {w n : Nat} (field : BitVec w) (hn : 8 ≤ n) :
    opField (op.setWidth 64 ||| (field.setWidth 64 <<< n)) = op := by
  simp only [opField]
  ext k hk
  simp [show k < 64 by omega, show k < n by omega, BitVec.getLsbD_eq_getElem hk]

theorem nop : Statement .nop := by decide
theorem init : Statement .init := by decide
theorem absorb : Statement .absorb := by decide
theorem final (nbits : BitVec 11) : Statement (.final nbits) := opField_or_shift _ nbits (by decide)
theorem permute : Statement .permute := by decide
theorem round (ridx : BitVec 5) : Statement (.round ridx) := opField_or_shift _ ridx (by decide)
theorem theta : Statement .theta := by decide
theorem rho : Statement .rho := by decide
theorem pi : Statement .pi := by decide
theorem chi : Statement .chi := by decide
theorem iota (ridx : BitVec 5) : Statement (.iota ridx) := opField_or_shift _ ridx (by decide)
theorem rcgen (ridx : BitVec 5) : Statement (.rcgen ridx) := opField_or_shift _ ridx (by decide)

end Sys2Proof.Laws.OpcodeByte
end

