-- ==== Sys2Proof/Tests/Slice0.lean ====
section
/-! SUPPORT. Tests of the model on the spec's own words and vectors (95_test_vectors.md, named in each docstring), the smoke tests of
WellFormed, and for every statement with hypotheses a witness that meets them. -/

namespace Sys2Proof.Tests

open Sys2Proof.Machine

/-! ## WellFormed refuses an ill-formed term of each check -/

theorem test_wf_final_range : ¬ (Instr.final 1088).WellFormed ∧ (Instr.final 1087).WellFormed := by decide
theorem test_wf_round_range : ¬ (Instr.round 24).WellFormed ∧ (Instr.round 23).WellFormed := by decide
theorem test_wf_iota_range : ¬ (Instr.iota 31).WellFormed ∧ (Instr.iota 0).WellFormed := by decide
theorem test_wf_rcgen_range : ¬ (Instr.rcgen 24).WellFormed ∧ (Instr.rcgen 23).WellFormed := by decide

/-! ## Words written out from 30_encoding.md R51 (bit 63 first) -/

theorem test_decode_nop : decode 0b0 = .ok .nop := by decide
theorem test_decode_init : decode 0b00000001 = .ok .init := by decide
theorem test_decode_absorb : decode 0b00000010 = .ok .absorb := by decide
theorem test_decode_final : decode 0b10000111111_00000000_00000011 = .ok (.final 1087) := by decide
theorem test_decode_permute : decode 0b00010000 = .ok .permute := by decide
theorem test_decode_round : decode 0b10111_00010001 = .ok (.round 23) := by decide
theorem test_decode_theta : decode 0b00010010 = .ok .theta := by decide
theorem test_decode_rho : decode 0b00010011 = .ok .rho := by decide
theorem test_decode_pi : decode 0b00010100 = .ok .pi := by decide
theorem test_decode_chi : decode 0b00010101 = .ok .chi := by decide
theorem test_decode_iota : decode 0b00101_00010110 = .ok (.iota 5) := by decide
theorem test_decode_rcgen : decode 0b00001_00010111 = .ok (.rcgen 1) := by decide
/-- V-ENC-5, V-ENC-9, V-ENC-12: an operand out of range still decodes; BADARG comes after (R52, R53). -/
theorem test_decode_out_of_range : decode 0x0000_0000_0440_0003 = .ok (.final 1088) ∧
    decode 0x0000_0000_0000_1811 = .ok (.round 24) ∧ decode 0x0000_0000_0000_1F17 = .ok (.rcgen 31) := by decide
/-- V-ENC-7, V-ENC-10, V-ENC-13 to V-ENC-17. -/
theorem test_decode_illegal : decode 0x0000_0000_0800_0003 = .error .unusedBitSet ∧
    decode 0x0000_0000_0000_2011 = .error .unusedBitSet ∧ decode 0x0000_0000_0000_0100 = .error .unusedBitSet ∧
    decode 0x0000_0000_0001_0002 = .error .unusedBitSet ∧ decode 0x8000_0000_0000_0010 = .error .unusedBitSet ∧
    decode 0x0000_0000_0000_0005 = .error .undefinedOpcode ∧ decode 0x0000_0000_0000_0018 = .error .undefinedOpcode := by decide
theorem test_table_word : decodeTableWord 64 0x516 = some (.iota 5) ∧ decodeTableWord 64 0x2011 = none := by decide
/-- R55's worked encodings. -/
theorem test_encode : encode (.final 8) = 0x0008_0003 ∧ encode (.final 1087) = 0x043F_0003 ∧ encode (.round 23) = 0x1711 ∧
    encode (.iota 5) = 0x516 ∧ encode (.rcgen 1) = 0x117 := by decide

/-! ## One step on a small state -/

/-- An idle engine with one input to take. -/
def idleWith (e : Event) : State := { State.reset with events := [e] }

/-- An idle engine in phase SQUEEZED with one input to take. -/
def squeezedWith (e : Event) : State := { State.reset with dvalid := true, events := [e] }

/-- An engine with the command pending, and the given inputs. -/
def pendingWith (i : Instr) (ev : List Event) : State :=
  { State.reset with busy := true, pend := some (encode i), events := ev }

/-- The engine's state after the pending command on the given lanes. -/
def lanesAfter (i : Instr) (A : Lanes) : Lanes :=
  match step { pendingWith i [] with a := A } with
  | .next t => t.a
  | _ => A

/-- STATUS after one step. -/
def statusAfter (s : State) : Option Word :=
  match step s with
  | .next t => some t.status
  | _ => none

/-- The latest response after one step. -/
def responseAfter (s : State) : Option BusResponse :=
  match step s with
  | .next t => t.responses.head?
  | _ => none

/-- The lane array with A[i] = i of 95_test_vectors.md. -/
def counting : Lanes := Vector.ofFn fun i => BitVec.ofNat 64 i.val

/-- V-TH-1. -/
theorem test_theta_one_bit : (lanesAfter .theta ((Vector.replicate 25 0).set 0 1)).toList =
    [1, 1, 0, 0, 2, 0, 1, 0, 0, 2, 0, 1, 0, 0, 2, 0, 1, 0, 0, 2, 0, 1, 0, 0, 2] := by decide
/-- V-RND-3, after THETA. -/
theorem test_theta_counting : (lanesAfter .theta counting)[4] = 0x2F ∧ (lanesAfter .theta counting)[24] = 0x33 := by decide
/-- V-RHO-2, V-RHO-3. -/
theorem test_rho : (lanesAfter .rho (Vector.replicate 25 1))[2] = 0x4000_0000_0000_0000 ∧
    (lanesAfter .rho (Vector.replicate 25 1))[24] = 0x4000 ∧
    (lanesAfter .rho ((Vector.replicate 25 0).set 1 0x8000_0000_0000_0000))[1] = 1 := by decide
/-- V-PI-1. -/
theorem test_pi : (lanesAfter .pi counting).toList =
    [0, 6, 12, 18, 24, 3, 9, 10, 16, 22, 1, 7, 13, 19, 20, 4, 5, 11, 17, 23, 2, 8, 14, 15, 21] := by decide
/-- V-CHI-4. -/
theorem test_chi : (lanesAfter .chi counting).toList =
    [2, 0, 6, 3, 5, 4, 14, 6, 12, 11, 14, 10, 14, 13, 15, 14, 18, 16, 30, 3, 22, 20, 30, 19, 25] := by decide
/-- V-IO-2. -/
theorem test_iota : (lanesAfter (.iota 23) (Vector.replicate 25 0xFFFF_FFFF_FFFF_FFFF))[0] = 0x7FFF_FFFF_7FFF_7FF7 := by
  decide +kernel
/-- V-RND-2. -/
theorem test_round : (lanesAfter (.round 1) (Vector.replicate 25 0)).toList = 0x8082 :: List.replicate 24 0 := by decide +kernel
/-- V-RND-3, after the whole round. -/
theorem test_round_counting : (lanesAfter (.round 0) counting)[0] = 0x0000_1800_0000_001B ∧
    (lanesAfter (.round 0) counting)[24] = 0x0B00_0000_0000_0074 := by decide +kernel
/-- R84's example and V-RC-1. -/
theorem test_rcgen : (match step (pendingWith (.rcgen 2) []) with | .next t => t.rcout | _ => 0) = 0x8000_0000_0000_808A := by
  decide +kernel
/-- V-LFSR-1. -/
theorem test_lfsr : lfsrRun 0x01 19 = 0xBE := by decide
/-- R90's example: STATUS 0x0 and NOP give 0x2. -/
theorem test_nop : statusAfter (pendingWith .nop []) = some 0x2 := by decide
/-- V-ERR-6: INIT's completion clears an ERR recorded while it ran. -/
theorem test_init_clears_err : statusAfter { pendingWith .init [] with err := 4 } = some 0x2 := by decide
/-- V-ERR-8 without the preceding DONE: FINAL leaves DONE and DVALID. -/
theorem test_final_status : statusAfter (pendingWith (.final 0) []) = some 0x6 := by decide +kernel
/-- P6: FINAL 1087 counts two blocks. -/
theorem test_final_two_blocks : (match step (pendingWith (.final 1087) []) with | .next t => t.blkcnt | _ => 0) = 2 := by
  decide +kernel
/-- R92's example: ABSORB counts one block. -/
theorem test_absorb_counts : (match step (pendingWith .absorb []) with | .next t => t.blkcnt | _ => 0) = 1 := by decide +kernel

/-! ## The aligner, the padding, bytes -/

/-- V-AL-3. -/
theorem test_align_ignores_high_bits : align (BitVec.allOnes 1088) 5 = [0x3F ^^^ BitVec.twoPow 1088 1087] := by decide +kernel
/-- V-AL-5. -/
theorem test_align_last_positions : align 0 1086 = [BitVec.twoPow 1088 1086 ^^^ BitVec.twoPow 1088 1087] := by decide +kernel
/-- V-AL-6. -/
theorem test_align_two_blocks : align (BitVec.allOnes 1088) 1087 = [BitVec.allOnes 1088, BitVec.twoPow 1088 1087] := by
  decide +kernel
/-- V-PAD-1 to V-PAD-4, and V-PAD-5's length of 1089. -/
theorem test_padding_lengths : padZeros 0 = 1086 ∧ padZeros 8 = 1078 ∧ padZeros 1086 = 0 ∧ padZeros 1088 = 1086 ∧
    padZeros 1087 + 2 = 1089 := by decide
/-- V-BYTE-2. -/
theorem test_bytes_abc : blockWord [0x61, 0x62, 0x63] 0 = 0x63_6261 := by decide
/-- R97: the two bits 0, 1 behind the bytes of a partial block put the byte 0x02 after them, with nbits = 8t + 2. -/
theorem test_sha3_suffix : blockOfBits (messageBits [0xA3] ++ [false, true]) = 0x02A3 ∧
    (messageBits [0xA3] ++ [false, true]).length = 8 * 1 + 2 := by decide +kernel
/-- V-DIG-1. -/
theorem test_digest_hex : (digestHex ((Vector.replicate 4 0).set 0 0x3C23_F786_0146_D2C5)).take 16 = "c5d2460186f7233c".toList := by
  decide

/-- R69's table by lane number. -/
theorem test_rho_offsets : rhoOffsets =
    #v[0, 1, 62, 28, 27, 36, 44, 6, 55, 20, 3, 10, 43, 25, 39, 41, 45, 15, 21, 8, 18, 2, 61, 56, 14] := by decide

/-! ## The window and the lifecycle -/

/-- V-ERR-3: a CMD write of INIT is accepted. -/
theorem test_accept : statusAfter (idleWith (.write 8 0x300 0x1)) = some 0x1 := by decide
/-- V-ERR-4: a CMD write while busy is dropped. -/
theorem test_busy_drop : statusAfter { pendingWith .init [.write 8 0x300 0x0] with delay := 1 } = some 0x401 := by decide
/-- V-ERR-9, V-ERR-10: ABSORB in phase SQUEEZED gives SEQUENCE; a later ILLEGAL keeps 3. -/
theorem test_sequence_then_illegal : statusAfter (squeezedWith (.write 8 0x300 0x2)) = some 0x306 ∧
    statusAfter { squeezedWith (.write 8 0x300 0x5) with err := 3 } = some 0x306 := by decide
/-- V-ERR-12, V-ENC-20: BADARG, also before SEQUENCE. -/
theorem test_badarg : statusAfter (squeezedWith (.write 8 0x300 0x1811)) = some 0x206 ∧
    statusAfter (squeezedWith (.write 8 0x300 0x0440_0003)) = some 0x206 := by decide
/-- V-BUS-1 to V-BUS-6. -/
theorem test_bus_errors : responseAfter (idleWith (.read 8 0x300)) = some (.busError 0x300) ∧
    responseAfter (idleWith (.write 8 0x200 0)) = some (.busError 0x200) ∧
    responseAfter (idleWith (.write 4 0x300 1)) = some (.busError 0x300) ∧
    responseAfter (idleWith (.read 8 0x004)) = some (.busError 0x004) ∧
    responseAfter (idleWith (.read 8 0x0C8)) = some (.busError 0x0C8) ∧
    responseAfter (idleWith (.write 8 0x318 0)) = some (.busError 0x318) := by decide
/-- R16: D reads 0 while DVALID = 0, and its latch once DVALID = 1. -/
theorem test_read_digest : responseAfter { idleWith (.read 8 0x200) with d := Vector.replicate 4 7 } = some (.data 0) ∧
    responseAfter { squeezedWith (.read 8 0x218) with d := Vector.replicate 4 7 } = some (.data 7) := by decide
/-- R55: a line of assembler text. -/
theorem test_assemble_line : assembleLine "WR A[3,1], 0xFF".toList = some [.write 8 0x40 0xFF] ∧
    assembleLine "FINAL 1088".toList = none := by decide
/-- R55: an operand out of range is refused, also behind EXEC, and LOADBLK takes at most 136 bytes. -/
theorem test_assembler_refuses : assembleLine "EXEC ROUND 24".toList = none ∧
    pseudoExec (.round 24) = none ∧ (pseudoLoadBlk (List.replicate 137 (0 : Byte))).isSome = false := by
  refine ⟨by decide, by decide, ?_⟩
  rw [pseudoLoadBlk_isSome, List.length_replicate]
  decide
/-- R8, R55: digit groups, and the register names as written, no others. -/
theorem test_literals_and_names : number "0xFF_00".toList = some 0xFF00 ∧ number "1_088".toList = some 1088 ∧
    ["_", "0x_", "0x", "1_", "_1", "1__0", "12a", ""].all (fun t => number t.toList == none) ∧
    regNamed "A24".toList = some (.a 24) ∧ regNamed "A[4,4]".toList = some (.a 24) ∧ regNamed "B16".toList = some (.b 16) ∧
    ["A007", "A0x18", "A_", "A25", "B17", "D4", "A[5,0]", "A"].all (fun t => regNamed t.toList == none) ∧
    assembleLine "FINAL _".toList = none ∧ assembleLine "FINAL 1_087".toList = some [.write 8 0x300 0x043F_0003] := by
  decide
/-- A word placed by withFetchWord runs in the very next step. -/
theorem test_fetch_word : statusAfter (State.reset.withFetchWord 64 0x12) = some 0x1 ∧
    statusAfter (State.reset.withFetchWord 64 0x1811) = some 0x202 := by decide

/-! ## Witnesses: for every statement with hypotheses, a state and operands that meet them -/

/-- One step answers a next state that has the property. -/
def nextHas (s : State) (p : State → Bool) : Bool :=
  match step s with
  | .next t => p t
  | _ => false

theorem exists_of_nextHas {s : State} {p : State → Bool} (h : nextHas s p = true) : ∃ t, step s = .next t ∧ p t = true := by
  unfold nextHas at h
  split at h
  · exact ⟨_, ‹_›, h⟩
  · cases h

/-- A step refused by name. -/
def refusedWith (s : State) (r : Refusal) : Bool :=
  match step s with
  | .refused r' => r' == r
  | _ => false

/-- An engine held in reset, with the given input. -/
def heldWith (e : Event) : State := { State.reset with resetLine := true, events := [e] }

theorem inv_idleWith (e : Event) : (idleWith e).Inv := by
  constructor <;> simp [idleWith, State.reset, State.AtReset]

theorem inv_squeezedWith (e : Event) : (squeezedWith e).Inv := by
  constructor <;> simp [squeezedWith, State.reset, State.AtReset]

theorem inv_heldWith (e : Event) : (heldWith e).Inv := by
  constructor <;> simp [heldWith, State.reset, State.AtReset]

/-- A pending command whose word R118 accepts makes a sound state, for any inputs and delay. -/
theorem inv_pendingWith (i : Instr) (ev : List Event) (n : Nat) (h : admissible (encode i) State.reset = true) :
    ({ pendingWith i ev with delay := n } : State).Inv := by
  constructor <;> simp [pendingWith, State.reset, State.AtReset]
  rw [← h]
  exact admissible_congr _ rfl

theorem wit_EncodeOfDecode : decode 0x043F_0003 = .ok (.final 1087) ∧ decode 0 = .ok .nop := by decide

theorem wit_SubmitFollowsTheOpcodeMap : State.reset.busy = false ∧
    (∃ r ∈ opmap, (0x1F11 : Word) &&& r.mask = r.matchBits) ∧ (∀ r ∈ opmap, (0x2011 : Word) &&& r.mask ≠ r.matchBits) := by
  decide

theorem wit_IllegalWordsAreRefused : (∀ r ∈ opmap, (0x05 : Word) &&& r.mask ≠ r.matchBits) ∧
    (opField 0x04).toNat = 0x04 ∧ (opField 0x0F).toNat = 0x0F ∧ 0x18 ≤ (opField 0x18).toNat ∧ 0x18 ≤ (opField 0xFF).toNat ∧
    (∃ r ∈ opmap, opField 0x0800_0003 = opField r.matchBits ∧ (0x0800_0003 : Word) &&& r.mask ≠ r.matchBits) := by
  decide

theorem wit_OperandRangeChecks : 23 < (24 : BitVec 5).toNat ∧ 1087 < (1088 : BitVec 11).toNat ∧ (23 : BitVec 5).toNat ≤ 23 ∧
    (1087 : BitVec 11).toNat ≤ 1087 ∧ State.reset.busy = false ∧ State.reset.dvalid = false := by decide

theorem wit_AcceptanceEffect : (idleWith .wait).busy = false ∧ (Instr.final 1087).WellFormed ∧ (idleWith .wait).dvalid = false ∧
    (squeezedWith .wait).busy = false ∧ (squeezedWith .wait).dvalid = true ∧ Instr.permute.WellFormed ∧
    Instr.permute ≠ .absorb ∧ ∀ n, Instr.permute ≠ .final n := by
  refine ⟨rfl, by decide, rfl, rfl, rfl, rfl, nofun, nofun⟩

theorem wit_RejectedCommandEffect : (squeezedWith .wait).busy = false ∧ (squeezedWith .wait).dvalid = true ∧
    decode 0x05 = .error .undefinedOpcode ∧ decode 0x1811 = .ok (.round 24) ∧ ¬ (Instr.round 24).WellFormed ∧
    decode 0x0003 = .ok (.final 0) ∧ (Instr.final 0).WellFormed ∧ decode 0x0002 = .ok .absorb ∧ Instr.absorb.WellFormed := by
  decide

theorem wit_CommandErrorPriority : (squeezedWith .wait).resetLine = false ∧ (squeezedWith .wait).busy = false ∧
    (squeezedWith .wait).dvalid = true ∧ (pendingWith .nop []).resetLine = false ∧ (pendingWith .nop []).busy = true ∧
    (4 : Nat) ≠ 8 ∧ decode 0x18 = .error .undefinedOpcode ∧ decode 0x0440_0003 = .ok (.final 1088) ∧
    ¬ (Instr.final 1088).WellFormed ∧ decode 0x043F_0003 = .ok (.final 1087) ∧ (Instr.final 1087).WellFormed ∧
    (idleWith .wait).dvalid = false ∧ decode 0x0001 = .ok .init := by decide

/-- For NopCompletes, InitCompletes, PermuteCompletes, ThetaCompletes, RhoCompletes, PiCompletes, ChiCompletes, and the last clause of
ResetValues. -/
theorem wit_completion : (pendingWith .nop []).busy = true ∧ (pendingWith .nop []).ie = false := by decide

theorem wit_AbsorbCompletes : (pendingWith .absorb []).busy = true ∧ (pendingWith .absorb []).dvalid = false := by decide

theorem wit_FinalCompletesInOneBlock : (pendingWith (.final 1086) []).busy = true ∧ (pendingWith (.final 1086) []).dvalid = false ∧
    (1086 : BitVec 11).toNat ≤ 1086 ∧ (0 : BitVec 11).toNat ≤ 1086 := by decide

theorem wit_FinalCompletesInTwoBlocks : (pendingWith (.final 1087) []).busy = true ∧
    (pendingWith (.final 1087) []).dvalid = false := by decide

/-- For RoundCompletes, IotaCompletes and RcgenCompletes. -/
theorem wit_round_index : (pendingWith (.round 23) []).busy = true ∧ (23 : BitVec 5).toNat ≤ 23 ∧ (0 : BitVec 5).toNat ≤ 23 := by
  decide

theorem wit_LfsrStepAndOutput : (0 : Nat) % 255 = 0 ∧ 255 % 255 = 0 ∧ 0 < (254 : Fin 255).val := by decide

theorem wit_CommandCompositions : State.reset.busy = false ∧ State.reset.pend = none ∧ (23 : BitVec 5).toNat ≤ 23 := by decide

theorem wit_BytesFillTheBlock : (List.replicate 136 (0xFF : Byte)).length ≤ 136 ∧ ([] : List Byte).length ≤ 136 ∧ 135 < 136 :=
  ⟨by rw [List.length_replicate], by decide, by decide⟩

theorem wit_AlignerBlocks : 0 ≤ 1086 ∧ 1086 ≤ 1086 ∧ 1087 = 1087 := by decide

/-- A message of 1087 bits that are 0, and the block buffer 0. -/
theorem wit_AlignerImplementsPadding : ∃ M : List Bool, M.length % 1088 = 1087 ∧
    ∀ t < M.length % 1088, (0 : Block).getLsbD t = M.getD (1088 * (M.length / 1088) + t) false := by
  obtain ⟨n, hn⟩ : ∃ n, n = 1087 := ⟨_, rfl⟩
  refine ⟨List.replicate n false, by rw [List.length_replicate, hn], fun t _ => ?_⟩
  rw [List.getD_eq_getElem?_getD, List.getElem?_replicate]
  split <;> simp

theorem wit_CommandsComputeTheHash : (squeezedWith .wait).busy = false ∧ (squeezedWith .wait).pend = none := by decide

/-- Both ends of each reserved range of RegisterMap, and a misaligned offset. -/
theorem wit_RegisterMap : ∀ off ∈ [0x004, 0x0C8, 0x0F8, 0x188, 0x1F8, 0x220, 0x2F8, 0x328, 0x3FF],
    off < 0x400 ∧ (off % 8 ≠ 0 ∨ (0x0C8 ≤ off ∧ off ≤ 0x0F8) ∨ (0x188 ≤ off ∧ off ≤ 0x1F8) ∨ (0x220 ≤ off ∧ off ≤ 0x2F8) ∨
      0x328 ≤ off) := by decide

/-- Each clause of BusErrorsExactly: offsets in and out of the reserved ranges, the registers of one access only, a narrow access. -/
theorem wit_BusErrorsExactly : (idleWith .wait).resetLine = false ∧
    let bad : Nat → Int → Bool := fun width off => decide <| width ≠ 8 ∨ off % 8 ≠ 0 ∨ (0x0C8 ≤ off ∧ off < 0x100) ∨
      (0x188 ≤ off ∧ off < 0x200) ∨ (0x220 ≤ off ∧ off < 0x300) ∨ 0x328 ≤ off
    bad 4 0x300 ∧ bad 8 0x0F8 ∧ bad 8 0x3F8 ∧ bad 8 0x3FF ∧
    ¬ (bad 8 0x000 ∨ (0x000 : Int) = 0x300) ∧ ¬ (bad 8 0x320 ∨ (0x320 : Int) = 0x300) ∧
    ¬ (bad 8 0x300 ∨ ((0x200 : Int) ≤ 0x300 ∧ (0x300 : Int) < 0x220) ∨ (0x300 : Int) = 0x318 ∨ (0x300 : Int) = 0x320) ∧
    ¬ (bad 8 0x180 ∨ ((0x200 : Int) ≤ 0x180 ∧ (0x180 : Int) < 0x220) ∨ (0x180 : Int) = 0x318 ∨ (0x180 : Int) = 0x320) := by
  refine ⟨rfl, ?_⟩
  decide

theorem wit_IdleReads : (squeezedWith .wait).busy = false ∧ (squeezedWith .wait).resetLine = false := by decide

/-- BusyWindow, with an input that is taken. -/
theorem wit_BusyWindow : (pendingWith .permute []).busy = true ∧ (pendingWith .permute []).resetLine = false ∧
    Event.write 8 0x310 1 ≠ .assertReset ∧ ∃ t, takeEvent (.write 8 0x310 1) (pendingWith .permute []) = .next t :=
  ⟨rfl, rfl, nofun, _, rfl⟩

theorem wit_ReadAfterWrite : State.reset.busy = false ∧ State.reset.resetLine = false ∧ (Reg.a 24).readable = true ∧
    Reg.rcout.readable = true ∧ (∃ i, Reg.a 24 = .a i) ∧ ∃ j, Reg.b 16 = .b j := by decide

/-- For StatusRegister, CtrlRegister, InterruptLine and the second clause of RefusedAccesses. -/
theorem wit_not_in_reset : (squeezedWith .wait).resetLine = false ∧ (-1 : Int) < 0 ∧ (0x400 : Int) ≤ 0x400 := by decide

theorem wit_RefusedAccesses : (heldWith .wait).resetLine = true := by decide

/-- InvariantKeptByEveryStep, at a completion. -/
theorem wit_InvariantKeptByEveryStep : ∃ s t, s.Inv ∧ step s = .next t ∧ s.busy = true := by
  obtain ⟨t, ht, -⟩ := exists_of_nextHas (s := { pendingWith .theta [] with delay := 0 }) (p := fun _ => true) (by decide)
  exact ⟨_, t, inv_pendingWith .theta [] 0 (by decide), ht, rfl⟩

/-- NoFaultFromTheInvariant: both refusals happen. -/
theorem wit_NoFaultFromTheInvariant : (heldWith (.read 8 0)).Inv ∧ (idleWith (.write 8 0x400 0)).Inv ∧
    refusedWith (heldWith (.read 8 0)) .accessDuringReset = true ∧
    refusedWith (idleWith (.write 8 0x400 0)) (.accessOutsideWindow 0x400) = true :=
  ⟨inv_heldWith _, inv_idleWith _, by decide, by decide⟩

theorem wit_StepRunsTheDecodedCommand : (pendingWith (.rcgen 1) [.wait]).busy = true ∧ (pendingWith (.rcgen 1) [.wait]).delay = 0 ∧
    (pendingWith (.rcgen 1) [.wait]).pend = some 0x117 ∧ decode 0x117 = .ok (.rcgen 1) ∧
    (idleWith (.write 8 0x300 0x117)).events = .write 8 0x300 0x117 :: [] ∧ (idleWith (.write 8 0x300 0x117)).busy = false ∧
    (idleWith (.write 8 0x300 0x117)).resetLine = false ∧ decodeTableWord 64 0x117 = some (.rcgen 1) := by decide

/-- BUSY rises at a CMD write, falls at a completion, and falls at reset. -/
theorem wit_BusyChangesOnlyByLifecycle :
    (∃ s t, s.Inv ∧ step s = .next t ∧ s.busy = false ∧ t.busy = true) ∧
    (∃ s t, s.Inv ∧ step s = .next t ∧ s.busy = true ∧ t.busy = false ∧ s.events = []) ∧
    ∃ s t, s.Inv ∧ step s = .next t ∧ s.busy = true ∧ t.busy = false ∧ s.delay = 1 := by
  refine ⟨?_, ?_, ?_⟩
  · obtain ⟨t, ht, h⟩ := exists_of_nextHas (s := idleWith (.write 8 0x300 0x01)) (p := (·.busy)) (by decide)
    exact ⟨_, t, inv_idleWith _, ht, rfl, h⟩
  · obtain ⟨t, ht, h⟩ := exists_of_nextHas (s := { pendingWith .nop [] with delay := 3 }) (p := (!·.busy)) (by decide)
    exact ⟨_, t, inv_pendingWith .nop [] 3 (by decide), ht, rfl, by simpa using h, rfl⟩
  · obtain ⟨t, ht, h⟩ := exists_of_nextHas (s := { pendingWith .nop [.assertReset] with delay := 1 }) (p := (!·.busy)) (by decide)
    exact ⟨_, t, inv_pendingWith .nop [.assertReset] 1 (by decide), ht, rfl, by simpa using h, rfl⟩

/-- DONE rises at a completion and at a rejection, and falls at a STATUS write. -/
theorem wit_DoneChangesOnlyByLifecycle :
    (∃ s t, s.Inv ∧ step s = .next t ∧ s.busy = true ∧ s.delay = 0 ∧ s.done = false ∧ t.done = true) ∧
    (∃ s t, s.Inv ∧ step s = .next t ∧ s.busy = false ∧ s.done = false ∧ t.done = true) ∧
    ∃ s t, s.Inv ∧ step s = .next t ∧ s.done = true ∧ t.done = false := by
  refine ⟨?_, ?_, ?_⟩
  · obtain ⟨t, ht, h⟩ := exists_of_nextHas (s := { pendingWith .nop [.wait] with delay := 0 }) (p := (·.done)) (by decide)
    exact ⟨_, t, inv_pendingWith .nop [.wait] 0 (by decide), ht, rfl, rfl, rfl, h⟩
  · obtain ⟨t, ht, h⟩ := exists_of_nextHas (s := idleWith (.write 8 0x300 0x1811)) (p := (·.done)) (by decide)
    exact ⟨_, t, inv_idleWith _, ht, rfl, rfl, h⟩
  · obtain ⟨t, ht, h⟩ := exists_of_nextHas (s := { idleWith (.write 8 0x308 2) with done := true }) (p := (!·.done)) (by decide)
    refine ⟨_, t, ?_, ht, rfl, by simpa using h⟩
    constructor <;> simp [idleWith, State.reset, State.AtReset]

/-- ERR takes a code at a CMD write and at a dropped A write, and INIT clears it. -/
theorem wit_ErrKeepsTheFirstError :
    (∃ s t, s.Inv ∧ step s = .next t ∧ s.err = 0 ∧ t.err = 1) ∧ (∃ s t, s.Inv ∧ step s = .next t ∧ s.err = 0 ∧ t.err = 4) ∧
    ∃ s t, s.Inv ∧ step s = .next t ∧ s.err = 4 ∧ t.err = 0 := by
  refine ⟨?_, ?_, ?_⟩
  · obtain ⟨t, ht, h⟩ := exists_of_nextHas (s := idleWith (.write 8 0x300 0x05)) (p := (·.err == 1)) (by decide)
    exact ⟨_, t, inv_idleWith _, ht, rfl, by simpa using h⟩
  · obtain ⟨t, ht, h⟩ := exists_of_nextHas (s := { pendingWith .nop [.write 8 0x0C0 7] with delay := 1 }) (p := (·.err == 4))
      (by decide)
    exact ⟨_, t, inv_pendingWith .nop _ 1 (by decide), ht, rfl, by simpa using h⟩
  · obtain ⟨t, ht, h⟩ := exists_of_nextHas (s := { pendingWith .init [] with err := 4 }) (p := (·.err == 0)) (by decide)
    refine ⟨_, t, ?_, ht, rfl, by simpa using h⟩
    constructor <;> simp [pendingWith, State.reset, State.AtReset]
    decide

/-- FINAL enters phase SQUEEZED, INIT leaves it. -/
theorem wit_DigestAndPhaseChangeOnlyBy :
    (∃ s t, s.Inv ∧ step s = .next t ∧ s.dvalid = false ∧ t.dvalid ≠ s.dvalid) ∧
    ∃ s t, s.Inv ∧ step s = .next t ∧ s.dvalid = true ∧ t.dvalid ≠ s.dvalid := by
  refine ⟨?_, ?_⟩
  · obtain ⟨t, ht, h⟩ := exists_of_nextHas (s := { pendingWith (.final 1087) [] with delay := 0 }) (p := (·.dvalid))
      (by decide +kernel)
    exact ⟨_, t, inv_pendingWith (.final 1087) [] 0 (by decide), ht, rfl, by simp [h, pendingWith, State.reset]⟩
  · obtain ⟨t, ht, h⟩ := exists_of_nextHas (s := { pendingWith .init [] with dvalid := true }) (p := (!·.dvalid)) (by decide)
    refine ⟨_, t, ?_, ht, rfl, by simp_all⟩
    constructor <;> simp [pendingWith, State.reset, State.AtReset]
    decide

/-- B changes at a Host write, RCOUT at RCGEN, BLKCNT at ABSORB. -/
theorem wit_BufferAndCountersChangeOnlyBy :
    (∃ s t, s.Inv ∧ step s = .next t ∧ t.b ≠ s.b) ∧ (∃ s t, s.Inv ∧ step s = .next t ∧ t.rcout ≠ s.rcout) ∧
    ∃ s t, s.Inv ∧ step s = .next t ∧ t.blkcnt ≠ s.blkcnt := by
  refine ⟨?_, ?_, ?_⟩
  · obtain ⟨t, ht, h⟩ := exists_of_nextHas (s := idleWith (.write 8 0x180 7)) (p := fun t => t.b != (idleWith (.write 8 0x180 7)).b)
      (by decide)
    exact ⟨_, t, inv_idleWith _, ht, by simpa using h⟩
  · obtain ⟨t, ht, h⟩ := exists_of_nextHas (s := { pendingWith (.rcgen 23) [] with delay := 0 }) (p := (·.rcout != 0))
      (by decide +kernel)
    exact ⟨_, t, inv_pendingWith (.rcgen 23) [] 0 (by decide), ht, by simpa [pendingWith, State.reset] using h⟩
  · obtain ⟨t, ht, h⟩ := exists_of_nextHas (s := { pendingWith .absorb [] with delay := 0 }) (p := (·.blkcnt != 0))
      (by decide +kernel)
    exact ⟨_, t, inv_pendingWith .absorb [] 0 (by decide), ht, by simpa [pendingWith, State.reset] using h⟩

/-- EveryAcceptedCommandCompletes, with two inputs inside the window and a delay. -/
theorem wit_EveryAcceptedCommandCompletes : ∃ s : State, s.Inv ∧ s.busy = true ∧ s.delay = 2 ∧
    s.events = [.write 8 0 1, .read 4 0x3FF] ∧ ∀ e ∈ s.events, e ≠ .assertReset ∧
      ∀ width off v, e = .read width off ∨ e = .write width off v → 0 ≤ off ∧ off < 0x400 := by
  refine ⟨_, inv_pendingWith .chi [.write 8 0 1, .read 4 0x3FF] 2 (by decide), rfl, rfl, rfl, ?_⟩
  simp [pendingWith]

/-- WaitMakesTimingInvisible. -/
theorem wit_WaitMakesTimingInvisible : ∃ (s u : State) (rest : List Event), s.Inv ∧ s.busy = true ∧ s.events = .wait :: rest ∧
    s.delay = 2 ∧ engineStep s = .next u := by
  obtain ⟨t, ht, -⟩ := exists_of_nextHas (s := { pendingWith .pi [] with delay := 2 }) (p := fun _ => true) (by decide)
  refine ⟨{ pendingWith .pi [.wait] with delay := 2 }, _, [], inv_pendingWith .pi [.wait] 2 (by decide), rfl, rfl, rfl, rfl⟩

end Sys2Proof.Tests
end

namespace Sys2Proof

/-! ### The encoder gives back the word the decoder read (30_encoding.md R51, R52) -/

/-- The bits a mask lets vary, taken from a word, complete the fixed bits of a word the mask accepts. -/
theorem or_free_bits_of_and_mask_eq {v mask fixed : Word} (h : v &&& mask = fixed) : fixed ||| (v &&& ~~~mask) = v := by
  rw [← h]
  ext k
  simp only [BitVec.getElem_or, BitVec.getElem_and, BitVec.getElem_not]
  cases v[k] <;> cases mask[k] <;> rfl

/-- NBITS put back in its place is exactly what FINAL's mask lets vary. -/
theorem placeNbits_nbitsField (v : Word) : placeNbits (nbitsField v) = v &&& ~~~maskNbits := by
  have hmask : ∀ k : Fin 64, (~~~maskNbits).getLsbD k.val = decide (16 ≤ k.val ∧ k.val < 27) := by decide
  refine BitVec.eq_of_getLsbD_eq fun k hk => ?_
  rw [BitVec.getLsbD_and, hmask ⟨k, hk⟩]
  by_cases h16 : k < 16
  · simp [placeNbits, h16, show ¬ 16 ≤ k by omega]
  · simp [placeNbits, nbitsField, hk, h16, show 16 ≤ k by omega, show 16 + (k - 16) = k by omega,
      show k - 16 < 11 ↔ k < 27 by omega, Bool.and_comm]

/-- RIDX put back in its place is exactly what the mask of ROUND, IOTA and RCGEN lets vary. -/
theorem placeRidx_ridxField (v : Word) : placeRidx (ridxField v) = v &&& ~~~maskRidx := by
  have hmask : ∀ k : Fin 64, (~~~maskRidx).getLsbD k.val = decide (8 ≤ k.val ∧ k.val < 13) := by decide
  refine BitVec.eq_of_getLsbD_eq fun k hk => ?_
  rw [BitVec.getLsbD_and, hmask ⟨k, hk⟩]
  by_cases h8 : k < 8
  · simp [placeRidx, h8, show ¬ 8 ≤ k by omega]
  · simp [placeRidx, ridxField, hk, h8, show 8 ≤ k by omega, show 8 + (k - 8) = k by omega,
      show k - 8 < 5 ↔ k < 13 by omega, Bool.and_comm]

/-- A word that a row of the opcode map accepts is the encoding of the command the row builds. -/
theorem encode_build_of_accepts {r : OpRow} {v : Word} (hr : r ∈ opmap) (h : r.accepts v = true) :
    encode (r.build v) = v := by
  have hv : r.matchBits ||| (v &&& ~~~r.mask) = v := or_free_bits_of_and_mask_eq (by simpa [OpRow.accepts] using h)
  have hnone : v &&& ~~~maskNone = 0 := by simp [maskNone]
  simp only [opmap, List.mem_cons, List.not_mem_nil, or_false] at hr
  rcases hr with rfl | rfl | rfl | rfl | rfl | rfl | rfl | rfl | rfl | rfl | rfl | rfl <;> refine Eq.trans ?_ hv <;>
    simp [encode, Instr.opcode, Instr.operandBits, hnone, placeNbits_nbitsField, placeRidx_ridxField]

/-- The word of a decoded command is the command's encoding. -/
theorem encode_eq_of_decode {v : Word} {i : Instr} (h : decode v = .ok i) : encode i = v := by
  unfold decode at h
  cases hf : opmap.find? (·.accepts v) with
  | none =>
    rw [hf] at h
    dsimp only at h
    split at h <;> cases h
  | some r =>
    rw [hf] at h
    obtain rfl := Except.ok.inj h
    exact encode_build_of_accepts (List.mem_of_find?_eq_some hf) (by simpa using List.find?_some hf)

end Sys2Proof

namespace Sys2Proof.Machine

/-! ### What passes a command's checks -/

/-- A command is admitted exactly when its operands are in range and the phase is the one it needs (R53, R118). -/
theorem admission_none_iff (i : Instr) (s : State) :
    admission i s = none ↔ i.WellFormed ∧ (needsAbsorbing i = true → s.dvalid = false) := by
  rw [← argCheck_none_iff]
  cases hi : argCheck i <;> cases hn : needsAbsorbing i <;> simp [admission, phaseCheck, hi, hn]

/-- Every code STATUS.ERR can take is one of 1 to 4 (R98). -/
theorem CmdError.code_range (e : CmdError) : 1 ≤ e.code.toNat ∧ e.code.toNat ≤ 4 := by
  cases e <;> decide

/-- A recorded error leaves ERR nonzero (R24). -/
theorem recordError_err_ne_zero (e : CmdError) (s : State) : (recordError e s).err ≠ 0 := by
  rw [recordError_err]
  split
  · cases e <;> decide
  · assumption

/-- Recording an error keeps ERR a defined code (R24, R98). -/
theorem recordError_err_le {s : State} (e : CmdError) (h : s.err.toNat ≤ 4) : (recordError e s).err.toNat ≤ 4 := by
  rw [recordError_err]
  split
  · exact e.code_range.2
  · exact h

/-- ERR changes at an error only from 0, and then to a code of 1 to 4 (R24, R98). -/
theorem recordError_err_changed {e : CmdError} {s : State} (h : (recordError e s).err ≠ s.err) :
    s.err = 0 ∧ 1 ≤ (recordError e s).err.toNat ∧ (recordError e s).err.toNat ≤ 4 := by
  rw [recordError_err] at h ⊢
  split at h
  · next h0 =>
    rw [if_pos h0]
    exact ⟨h0, e.code_range⟩
  · exact absurd rfl h

/-! ### What a command's writes change, field by field -/

/-- Absorbing blocks one after another changes A and BLKCNT only, and BLKCNT by the number of blocks (R92, R93). -/
theorem foldl_absorbBlock_frame (Ps : List Block) (s : State) :
    Ps.foldl absorbBlock s =
      { s with a := (Ps.foldl absorbBlock s).a, blkcnt := s.blkcnt + BitVec.ofNat 64 Ps.length } := by
  induction Ps generalizing s with
  | nil => simp
  | cons P Ps ih =>
    rw [List.foldl_cons, ih]
    simp [absorbBlock, BitVec.add_assoc, BitVec.ofNat_add, BitVec.add_comm (1#64)]

@[simp] theorem foldl_absorbBlock_b (Ps : List Block) (s : State) :
    (Ps.foldl absorbBlock s).b = s.b := by
  rw [foldl_absorbBlock_frame]

@[simp] theorem foldl_absorbBlock_rcout (Ps : List Block) (s : State) :
    (Ps.foldl absorbBlock s).rcout = s.rcout := by
  rw [foldl_absorbBlock_frame]

@[simp] theorem foldl_absorbBlock_err (Ps : List Block) (s : State) :
    (Ps.foldl absorbBlock s).err = s.err := by
  rw [foldl_absorbBlock_frame]

@[simp] theorem foldl_absorbBlock_resetLine (Ps : List Block) (s : State) :
    (Ps.foldl absorbBlock s).resetLine = s.resetLine := by
  rw [foldl_absorbBlock_frame]

@[simp] theorem foldl_absorbBlock_blkcnt (Ps : List Block) (s : State) :
    (Ps.foldl absorbBlock s).blkcnt = s.blkcnt + BitVec.ofNat 64 Ps.length := by
  rw [foldl_absorbBlock_frame]

/-- The aligner gives two blocks exactly for a tail of 1087 bits (R60). -/
theorem align_length {nb : Nat} (B : Block) (h : nb ≤ 1087) : (align B nb).length = if nb = 1087 then 2 else 1 := by
  unfold align
  dsimp only
  split
  · rw [if_neg (by omega)]
    rfl
  · rw [if_pos (by omega)]
    rfl

/-- No command writes the reset line. -/
@[simp] theorem writesOf_resetLine (i : Instr) (s : State) : (writesOf i s).resetLine = s.resetLine := by
  cases i <;> simp [writesOf]

/-- INIT clears ERR, no other command writes it (R91). -/
theorem writesOf_err (i : Instr) (s : State) : (writesOf i s).err = if i = .init then 0 else s.err := by
  cases i <;> simp [writesOf]

/-- INIT clears B, no other command writes it (R15). -/
theorem writesOf_b (i : Instr) (s : State) : (writesOf i s).b = if i = .init then Vector.replicate 17 0 else s.b := by
  cases i <;> simp [writesOf]

/-- RCGEN gives RCOUT a round constant, INIT clears it, no other command writes it (R17). -/
theorem writesOf_rcout (i : Instr) (s : State) :
    (∃ r, i = .rcgen r ∧ (writesOf i s).rcout = roundConstant r.toNat) ∨
    (i = .init ∧ (writesOf i s).rcout = 0) ∨ (writesOf i s).rcout = s.rcout := by
  cases i
  case rcgen r => exact .inl ⟨r, rfl, rfl⟩
  case init => exact .inr (.inl ⟨rfl, rfl⟩)
  all_goals simp [writesOf]

/-- ABSORB and FINAL count their blocks in BLKCNT, INIT clears it, no other command writes it (R18). -/
theorem writesOf_blkcnt (i : Instr) (s : State) :
    (i = .absorb ∧ (writesOf i s).blkcnt = s.blkcnt + 1) ∨
    (∃ n, i = .final n ∧
      (writesOf i s).blkcnt = s.blkcnt + BitVec.ofNat 64 (align (blockOf s.b) n.toNat).length) ∨
    (i = .init ∧ (writesOf i s).blkcnt = 0) ∨ (writesOf i s).blkcnt = s.blkcnt := by
  cases i
  case absorb => exact .inl ⟨rfl, rfl⟩
  case init => exact .inr (.inr (.inl ⟨rfl, rfl⟩))
  all_goals simp [writesOf]

/-- FINAL latches A[0..3] in D and enters phase SQUEEZED, INIT clears D and the phase, no other command writes either
(R16, R23). -/
theorem writesOf_digest (i : Instr) (s : State) :
    (∃ n, i = .final n ∧ (writesOf i s).dvalid = true ∧ (writesOf i s).d = squeeze (writesOf i s).a) ∨
    (i = .init ∧ (writesOf i s).dvalid = false ∧ (writesOf i s).d = Vector.replicate 4 0) ∨
    ((writesOf i s).dvalid = s.dvalid ∧ (writesOf i s).d = s.d) := by
  cases i
  case final n => simp [writesOf]
  case init => exact .inr (.inl ⟨rfl, rfl, rfl⟩)
  all_goals simp [writesOf]

/-! ### Reset -/

theorem State.AtReset.dropEvent {s : State} (h : s.AtReset) : (dropEvent s).AtReset := by
  unfold State.AtReset
  conv_lhs => rw [h]
  rfl

/-- Releasing reset on registers that hold their reset values moves the reset line only (R116). -/
theorem releaseReset_of_atReset {s : State} (h : s.resetLine = true → s.AtReset) :
    releaseReset s = { s with resetLine := false } := by
  unfold releaseReset
  split
  · next hr =>
    conv_rhs => rw [h hr]
    rfl
  · next hr => rw [← Bool.eq_false_iff.2 hr]

/-- While a command is pending, reset is not asserted (R116). -/
theorem State.Inv.resetLine_of_busy {s : State} (hI : s.Inv) (hb : s.busy = true) : s.resetLine = false := by
  by_contra hr
  have h := congrArg State.busy (hI.reset_held (by simpa using hr))
  rw [hb] at h
  cases h

/-! ### Everything one step of a sound state can do -/

/-- The state from which the head of the input list acts, when it is a Host write that the bus completes: the input has left the
list and the Host has its response. -/
abbrev afterWrite (s : State) : State := respond .written (dropEvent s)

/-- The ends of a step: one constructor for each rule that changes a register, and two for the steps that change none. -/
inductive StepEffect (s : State) : State → Prop
  /-- The pending command completes (R118, R119). -/
  | completed (i : Instr) (hbusy : s.busy = true) (hdue : s.events = [] ∨ s.delay = 0) (hpend : s.pend = some (encode i))
      (hadm : admission i s = none) : StepEffect s (complete (writesOf i s))
  /-- The platform asserts reset (R116). -/
  | wasReset (hev : s.events.head? = some .assertReset) : StepEffect s (assertReset (dropEvent s))
  /-- A CMD write is accepted (R118). -/
  | accepted (i : Instr) (hline : s.resetLine = false) (hbusy : s.busy = false)
      (hev : s.events.head? = some (.write 8 0x300 (encode i))) (hdec : decode (encode i) = .ok i)
      (hadm : admission i s = none) : StepEffect s (accept i (afterWrite s))
  /-- A CMD write is rejected (R100). -/
  | rejected (e : CmdError) (v : Word) (hline : s.resetLine = false) (hbusy : s.busy = false)
      (hev : s.events.head? = some (.write 8 0x300 v)) (hcode : e ≠ .busy) : StepEffect s (rejectCommand e (afterWrite s))
  /-- A write of CMD, A or B is dropped (R101). -/
  | dropped (off : Int) (v : Word) (hline : s.resetLine = false) (hbusy : s.busy = true)
      (hev : s.events.head? = some (.write 8 off v)) (hoff : off = 0x300 ∨ (0 ≤ off ∧ off < 0x188)) :
      StepEffect s (busyDrop (afterWrite s))
  /-- The Host writes a lane of A (R14). -/
  | wroteA (i : Fin 25) (v : Word) (hline : s.resetLine = false) (hbusy : s.busy = false)
      (hev : s.events.head? = some (.write 8 (8 * (i.val : Int)) v)) :
      StepEffect s { afterWrite s with a := s.a.set i.val v }
  /-- The Host writes a word of B (R15). -/
  | wroteB (j : Fin 17) (v : Word) (hline : s.resetLine = false) (hbusy : s.busy = false)
      (hev : s.events.head? = some (.write 8 (0x100 + 8 * (j.val : Int)) v)) :
      StepEffect s { afterWrite s with b := s.b.set j.val v }
  /-- The Host writes STATUS (R20). -/
  | wroteStatus (v : Word) (hline : s.resetLine = false) (hev : s.events.head? = some (.write 8 0x308 v)) :
      StepEffect s (writeStatus v (afterWrite s))
  /-- The Host writes CTRL (R25). -/
  | wroteCtrl (v : Word) (hline : s.resetLine = false) (hev : s.events.head? = some (.write 8 0x310 v)) :
      StepEffect s (writeCtrl v (afterWrite s))
  /-- A read, a bus error or the release of reset: the registers keep their values, and reset is not asserted afterwards. -/
  | onlyBus (events : List Event) (responses : List BusResponse) (delay draws : Nat) (line : Bool) (hline : line = false) :
      StepEffect s { s with events, responses, delay, draws, resetLine := line }
  /-- No input is left and no command is pending (R114). -/
  | nothing : StepEffect s s

/-- A Host write that the bus completes has one of the ends of StepEffect. -/
theorem StepEffect.of_writeReg {s t : State} {r : Reg} {v : Word} (hline : s.resetLine = false)
    (hev : s.events.head? = some (.write 8 (r.offset : Int) v)) (hw : r.writable = true)
    (h : writeReg r v (afterWrite s) = .next t) : StepEffect s t := by
  rcases writeReg_cases hw h with ⟨i, rfl, hend⟩ | ⟨j, rfl, hend⟩ | ⟨rfl, hend⟩ | ⟨rfl, rfl⟩ | ⟨rfl, rfl⟩
  · rcases hend with ⟨hb, rfl⟩ | ⟨hb, rfl⟩
    · exact .dropped _ v hline hb hev (.inr (by simp only [Reg.offset]; omega))
    · exact .wroteA i v hline hb (by simpa [Reg.offset] using hev)
  · rcases hend with ⟨hb, rfl⟩ | ⟨hb, rfl⟩
    · exact .dropped _ v hline hb hev (.inr (by simp only [Reg.offset]; omega))
    · exact .wroteB j v hline hb (by simpa [Reg.offset] using hev)
  · rcases submit_next hend with ⟨hb, rfl⟩ | ⟨hb, e, hcode, rfl⟩ | ⟨hb, i, hdec, hadm, rfl⟩
    · exact .dropped _ v hline hb hev (.inl rfl)
    · exact .rejected e v hline hb hev hcode
    · obtain rfl := encode_eq_of_decode hdec
      exact .accepted i hline hb hev hdec hadm
  · exact .wroteStatus v hline hev
  · exact .wroteCtrl v hline hev

/-- Every input has one of the ends of StepEffect. -/
theorem StepEffect.of_takeEvent {s t : State} {e : Event} (hI : s.Inv) (hev : s.events.head? = some e)
    (h : takeEvent e (dropEvent s) = .next t) : StepEffect s t := by
  rcases takeEvent_next h with ⟨rfl, rfl⟩ | ⟨rfl, rfl⟩ | ⟨hline, h⟩
  · exact .wasReset hev
  · rw [releaseReset_of_atReset (s := dropEvent s) fun hr => (hI.reset_held hr).dropEvent]
    exact .onlyBus _ _ _ _ _ rfl
  rcases h with ⟨off, rfl⟩ | ⟨width, off, r, -, rfl⟩ | ⟨-, rfl⟩ | ⟨v, r, rfl, hw, h⟩
  · exact .onlyBus _ _ _ _ _ hline
  · rcases readReg_cases r (dropEvent s) with h | ⟨-, -, v, h⟩ <;> rw [h] <;> exact .onlyBus _ _ _ _ _ hline
  · split <;> exact .onlyBus _ _ _ _ _ hline
  · exact .of_writeReg hline hev hw h

/-- Every step of a sound state has one of the ends of StepEffect. -/
theorem StepEffect.of_step {s t : State} (hI : s.Inv) (h : step s = .next t) : StepEffect s t := by
  rcases step_next hI h with ⟨hb, hdue, v, i, hp, hdec, hadm, rfl⟩ | ⟨e, rest, hev, -, h⟩ | ⟨-, -, rfl⟩
  · obtain rfl := encode_eq_of_decode hdec
    exact .completed i hb hdue hp hadm
  · exact .of_takeEvent hI (by rw [hev]; rfl) h
  · exact .nothing

/-! ### The invariant is kept -/

/-- A count the round counter is given stays below 24 (R29). -/
theorem roundCount_lt (draw : Nat) : (Config.roundCount draw).toNat < Config.rounds := by
  have h : Config.roundCountDraw draw % 24 < 24 := Nat.mod_lt _ (by decide)
  simp only [Config.roundCount, Config.rounds, BitVec.toNat_ofNat]
  omega

/-- Outside reset, and with PEND, BUSY, the round counter and the phase kept, only ERR and D are left to check. -/
theorem State.Inv.of_kept_lifecycle {s t : State} (hI : s.Inv) (hline : t.resetLine = false) (hpend : t.pend = s.pend)
    (hbusy : t.busy = s.busy) (hctr : t.roundCtr = s.roundCtr) (hdvalid : t.dvalid = s.dvalid) (hd : t.d = s.d)
    (herr : t.err.toNat ≤ 4) : t.Inv where
  busy_iff_pend := by rw [hbusy, hpend, hI.busy_iff_pend]
  pend_admissible v hv := by
    rw [admissible_congr v hdvalid]
    exact hI.pend_admissible v (hpend ▸ hv)
  counter_only_busy hb := by rw [hctr, hI.counter_only_busy (hbusy ▸ hb)]
  counter_below_rounds c hc := hI.counter_below_rounds c (hctr ▸ hc)
  err_defined := herr
  digest_hidden h := by rw [hd, hI.digest_hidden (hdvalid ▸ h)]
  reset_held h := by simp [hline] at h

/-- The completion of a command keeps the invariant: PEND is empty, and D is hidden by INIT or latched by FINAL. -/
theorem State.Inv.complete_writesOf {s : State} (hI : s.Inv) (hbusy : s.busy = true) (i : Instr) :
    (complete (writesOf i s)).Inv where
  busy_iff_pend := rfl
  pend_admissible v hv := by cases hv
  counter_only_busy _ := rfl
  counter_below_rounds c hc := by cases hc
  err_defined := by
    rw [complete_err, writesOf_err]
    split
    · decide
    · exact hI.err_defined
  digest_hidden h := by
    rw [complete_dvalid] at h
    rw [complete_d]
    rcases writesOf_digest i s with ⟨n, -, hv, -⟩ | ⟨-, -, hd⟩ | ⟨hv, hd⟩
    · rw [h] at hv
      cases hv
    · exact hd
    · rw [hd, hI.digest_hidden (hv ▸ h)]
  reset_held h := by simp [hI.resetLine_of_busy hbusy] at h

/-- The acceptance of an admitted command keeps the invariant. -/
theorem State.Inv.accept {s : State} (hI : s.Inv) (hline : s.resetLine = false) {i : Instr}
    (hdec : decode (encode i) = .ok i) (hadm : admission i s = none) : (accept i s).Inv where
  busy_iff_pend := rfl
  pend_admissible v hv := by
    obtain rfl := Option.some.inj hv
    rw [admissible_congr (s := Machine.accept i s) (t := s) _ rfl, admissible, hdec]
    simp [hadm]
  counter_only_busy h := by cases h
  counter_below_rounds c hc := by
    rw [accept_roundCtr] at hc
    split at hc
    · obtain rfl := Option.some.inj hc
      exact roundCount_lt _
    · cases hc
  err_defined := hI.err_defined
  digest_hidden h := hI.digest_hidden h
  reset_held h := by simp [hline] at h

/-- Asserting reset gives a sound state, whatever the state was. -/
theorem inv_assertReset (s : State) : (assertReset s).Inv where
  busy_iff_pend := rfl
  pend_admissible v hv := by cases hv
  counter_only_busy _ := rfl
  counter_below_rounds c hc := by cases hc
  err_defined := Nat.zero_le _
  digest_hidden _ := rfl
  reset_held _ := rfl

/-- Every end of a step keeps the invariant. -/
theorem StepEffect.inv {s t : State} (hI : s.Inv) (h : StepEffect s t) : t.Inv := by
  cases h with
  | completed i hbusy => exact hI.complete_writesOf hbusy i
  | wasReset => exact inv_assertReset _
  | accepted i hline _ _ hdec hadm =>
    have hwritten : (afterWrite s).Inv := hI.of_kept_lifecycle hline rfl rfl rfl rfl rfl hI.err_defined
    exact hwritten.accept hline hdec hadm
  | rejected e _ hline => exact hI.of_kept_lifecycle hline rfl rfl rfl rfl rfl (recordError_err_le e hI.err_defined)
  | dropped _ _ hline => exact hI.of_kept_lifecycle hline rfl rfl rfl rfl rfl (recordError_err_le .busy hI.err_defined)
  | wroteA i v hline | wroteB j v hline | wroteCtrl v hline =>
    exact hI.of_kept_lifecycle hline rfl rfl rfl rfl rfl hI.err_defined
  | wroteStatus v hline =>
    refine hI.of_kept_lifecycle hline rfl rfl rfl rfl rfl ?_
    rw [writeStatus_err]
    split
    · decide
    · exact hI.err_defined
  | onlyBus _ _ _ _ _ hline => exact hI.of_kept_lifecycle hline rfl rfl rfl rfl rfl hI.err_defined
  | nothing => exact hI

/-- Settles O51: one case for each end of a step. -/
theorem invariantKeptByEveryStep : Obligations.InvariantKeptByEveryStep := by
  intro s t hI h
  exact (StepEffect.of_step hI h).inv hI

/-! ### Who changes which register -/

/-- A step at which the pending command is due is its completion (R118, R124). -/
theorem step_next_of_due {s t : State} (hI : s.Inv) (h : step s = .next t) (hbusy : s.busy = true)
    (hdue : s.events = [] ∨ s.delay = 0) : ∃ i, t = complete (writesOf i s) := by
  rcases step_next hI h with ⟨-, -, -, i, -, -, -, ht⟩ | ⟨e, rest, hev, hdelay, -⟩ | ⟨hidle, -, -⟩
  · exact ⟨i, ht⟩
  · simp [hev, hdelay hbusy] at hdue
  · simp [hidle] at hbusy

/-- Settles O54: BUSY rises at an acceptance, and falls at a completion or at reset. -/
theorem busyChangesOnlyByLifecycle : Obligations.BusyChangesOnlyByLifecycle := by
  refine ⟨rfl, fun s t hI h => ?_⟩
  cases StepEffect.of_step hI h with
  | completed i hbusy hdue => exact ⟨by simp [hbusy], fun _ _ => .inl ⟨hdue, rfl, rfl⟩⟩
  | wasReset hev => exact ⟨by simp, fun _ _ => .inr hev⟩
  | accepted i _ _ hev => exact ⟨fun _ _ => ⟨i, hev, rfl, rfl, rfl⟩, by simp⟩
  | rejected | dropped | wroteA | wroteB | wroteStatus | wroteCtrl | onlyBus | nothing =>
    constructor <;> intro hs ht <;> simp [hs] at ht

/-- Settles O55: DONE rises at a completion or a rejection, and falls at a STATUS write or at reset. -/
theorem doneChangesOnlyByLifecycle : Obligations.DoneChangesOnlyByLifecycle := by
  intro s t hI h
  refine ⟨fun hbusy hdue => ?_, ?_⟩
  · obtain ⟨i, rfl⟩ := step_next_of_due hI h hbusy hdue
    rfl
  cases StepEffect.of_step hI h with
  | completed i hbusy hdue => exact ⟨fun _ _ => .inl ⟨hbusy, rfl, hdue⟩, by simp⟩
  | wasReset hev => exact ⟨by simp, fun _ _ => .inr hev⟩
  | rejected e v _ hbusy hev =>
    exact ⟨fun _ _ => .inr ⟨hbusy, hbusy, recordError_err_ne_zero e _, v, hev⟩, by simp⟩
  | wroteStatus v _ hev =>
    refine ⟨fun hs ht => ?_, fun hs ht => .inl ⟨v, hev, ?_⟩⟩
    · simp [hs] at ht
    · simpa [hs] using ht
  | accepted | dropped | wroteA | wroteB | wroteCtrl | onlyBus | nothing =>
    constructor <;> intro hs ht <;> simp [hs] at ht

/-- Settles O56: an error is recorded only over 0, and ERR is cleared by a STATUS write, INIT or reset. -/
theorem errKeepsTheFirstError : Obligations.ErrKeepsTheFirstError := by
  intro s t hI h hne
  cases StepEffect.of_step hI h with
  | completed i hbusy _ hpend =>
    rw [complete_err, writesOf_err] at hne ⊢
    obtain rfl : i = .init := by
      by_contra hi
      exact hne (if_neg hi)
    exact .inr ⟨rfl, .inr (.inl ⟨hpend, hbusy, rfl⟩)⟩
  | wasReset hev => exact .inr ⟨rfl, .inr (.inr hev)⟩
  | rejected e v _ _ hev =>
    obtain ⟨h0, hlow, hhigh⟩ := recordError_err_changed (s := afterWrite s) hne
    exact .inl ⟨h0, hlow, hhigh, _, v, hev, .inl rfl⟩
  | dropped off v _ _ hev hoff =>
    obtain ⟨h0, hlow, hhigh⟩ := recordError_err_changed (s := afterWrite s) hne
    exact .inl ⟨h0, hlow, hhigh, off, v, hev, hoff⟩
  | wroteStatus v _ hev =>
    rw [writeStatus_err] at hne ⊢
    split at hne
    · next hv => exact .inr ⟨if_pos hv, .inl ⟨v, hev, hv⟩⟩
    · exact absurd rfl hne
  | accepted | wroteA | wroteB | wroteCtrl | onlyBus | nothing => exact absurd rfl hne

/-- Settles O57: FINAL latches the digest, INIT and reset clear it. -/
theorem digestAndPhaseChangeOnlyBy : Obligations.DigestAndPhaseChangeOnlyBy := by
  intro s t hI h hne
  cases StepEffect.of_step hI h with
  | completed i _ _ hpend hadm =>
    rcases writesOf_digest i s with ⟨n, rfl, hv, hd⟩ | ⟨rfl, hv, hd⟩ | ⟨hv, hd⟩
    · refine .inl ⟨n, hpend, ((admission_none_iff _ s).1 hadm).2 rfl, rfl, hv, fun k => ?_⟩
      rw [complete_a]
      simp only [complete_d, hd, squeeze, Vector.getElem_ofFn]
    · exact .inr ⟨hv, hd, .inl ⟨hpend, rfl⟩⟩
    · simp [hv, hd] at hne
  | wasReset hev => exact .inr ⟨rfl, rfl, .inr hev⟩
  | accepted | rejected | dropped | wroteA | wroteB | wroteStatus | wroteCtrl | onlyBus | nothing => simp at hne

/-- Settles O58: B by Host writes, RCOUT by RCGEN, BLKCNT by ABSORB and FINAL, and all three by INIT and reset. -/
theorem bufferAndCountersChangeOnlyBy : Obligations.BufferAndCountersChangeOnlyBy := by
  intro s t hI h
  cases StepEffect.of_step hI h with
  | completed i _ _ hpend hadm =>
    have hwf := ((admission_none_iff i s).1 hadm).1
    refine ⟨fun hne => ?_, fun hne => ?_, fun hne => ?_⟩
    · rw [complete_b, writesOf_b] at hne ⊢
      split at hne
      · next hi =>
        subst hi
        exact .inr ⟨rfl, .inl ⟨hpend, rfl⟩⟩
      · exact absurd rfl hne
    · rcases writesOf_rcout i s with ⟨r, rfl, hr⟩ | ⟨rfl, hr⟩ | hr
      · exact .inl ⟨r, hpend, by simpa [Instr.WellFormed, Instr.wellFormed] using hwf, rfl, hr⟩
      · exact .inr ⟨hr, .inl ⟨hpend, rfl⟩⟩
      · exact absurd hr hne
    · rcases writesOf_blkcnt i s with ⟨rfl, hc⟩ | ⟨n, rfl, hc⟩ | ⟨rfl, hc⟩ | hc
      · exact .inl ⟨hpend, rfl, hc⟩
      · refine .inr (.inl ⟨n, hpend, rfl, ?_⟩)
        rw [complete_blkcnt, hc, align_length _ (by simpa [Instr.WellFormed, Instr.wellFormed] using hwf)]
        split <;> rfl
      · exact .inr (.inr ⟨hc, .inl ⟨hpend, rfl⟩⟩)
      · exact absurd hc hne
  | wasReset hev =>
    exact ⟨fun _ => .inr ⟨rfl, .inr hev⟩, fun _ => .inr ⟨rfl, .inr hev⟩, fun _ => .inr (.inr ⟨rfl, .inr hev⟩)⟩
  | wroteB j v _ hbusy hev => exact ⟨fun _ => .inl ⟨j, v, hbusy, hev, rfl⟩, by simp, by simp⟩
  | accepted | rejected | dropped | wroteA | wroteStatus | wroteCtrl | onlyBus | nothing => simp

/-! ### STATUS, CTRL and the interrupt line -/

/-- A flag is one bit of its register word (R8). -/
theorem getLsbD_flagBit (f : Bool) {place : Nat} (hp : place < 64) (k : Nat) :
    (flagBit f place).getLsbD k = (f && decide (k = place)) := by
  cases f
  · simp [flagBit]
  · simp only [flagBit, if_true, Bool.true_and, ← BitVec.twoPow_eq, BitVec.getLsbD_twoPow]
    grind

/-- The STATUS word bit by bit (R20). -/
theorem getLsbD_status (s : State) (k : Nat) :
    s.status.getLsbD k = (s.busy && decide (k = 0) || s.done && decide (k = 1) || s.dvalid && decide (k = 2) ||
      (decide (8 ≤ k) && s.err.getLsbD (k - 8))) := by
  have herr : (s.err.setWidth 64 <<< 8 : Word).getLsbD k = (decide (8 ≤ k) && s.err.getLsbD (k - 8)) := by
    rw [BitVec.getLsbD_shiftLeft, BitVec.getLsbD_setWidth]
    by_cases hk : k < 64
    · by_cases h8 : k < 8
      · simp [h8, show ¬ 8 ≤ k by omega]
      · simp [hk, h8, show 8 ≤ k by omega, show k - 8 < 64 by omega]
    · simp [hk, BitVec.getLsbD_of_ge s.err (k - 8) (by omega)]
  simp only [State.status, BitVec.getLsbD_or, getLsbD_flagBit _ (show 0 < 64 by decide),
    getLsbD_flagBit _ (show 1 < 64 by decide), getLsbD_flagBit _ (show 2 < 64 by decide), herr]

/-- The CTRL word bit by bit (R25). -/
theorem getLsbD_ctrl (s : State) (k : Nat) : s.ctrl.getLsbD k = (decide (k = 0) && s.ie) := by
  rw [State.ctrl, getLsbD_flagBit _ (by decide), Bool.and_comm]

/-- Outside reset an 8-byte Host write of a writable register is that register's write, and the bus completes it. -/
theorem hostWrite_of_target {s : State} {off : Int} {r : Reg} (v : Word) (hline : s.resetLine = false)
    (hin : inWindow off = true) (ht : target 8 off = some r) (hw : r.writable = true) :
    hostWrite 8 off v s = writeReg r v (respond .written s) := by
  simp [hostWrite, hline, hin, ht, hw]

theorem hostWrite_cmd {s : State} (v : Word) (hline : s.resetLine = false) :
    hostWrite 8 0x300 v s = submit v (respond .written s) :=
  hostWrite_of_target (r := .cmd) v hline (by decide) (by decide) rfl

theorem hostWrite_status {s : State} (v : Word) (hline : s.resetLine = false) :
    hostWrite 8 0x308 v s = .next (writeStatus v (respond .written s)) :=
  hostWrite_of_target (r := .status) v hline (by decide) (by decide) rfl

theorem hostWrite_ctrl {s : State} (v : Word) (hline : s.resetLine = false) :
    hostWrite 8 0x310 v s = .next (writeCtrl v (respond .written s)) :=
  hostWrite_of_target (r := .ctrl) v hline (by decide) (by decide) rfl

/-- Settles O45: the bits of STATUS one by one, then the write. -/
theorem statusRegister : Obligations.StatusRegister := by
  refine ⟨fun s k => ?_, by decide, fun s v hline => hostWrite_status v hline⟩
  rw [getLsbD_status]
  by_cases h0 : k = 0
  · simp [h0]
  by_cases h1 : k = 1
  · simp [h1]
  by_cases h2 : k = 2
  · simp [h2]
  by_cases h8 : 8 ≤ k
  · by_cases h11 : k ≤ 11
    · simp [h0, h1, h2, h8, h11]
    · simp [h0, h1, h2, h11, BitVec.getLsbD_of_ge s.err (k - 8) (by omega)]
  · simp [h0, h1, h2, h8]

/-- Settles O46: INIT keeps IE whether it is accepted or completes. -/
theorem ctrlRegister : Obligations.CtrlRegister := by
  refine ⟨getLsbD_ctrl, by decide, fun s v hline => hostWrite_ctrl v hline, fun s => ?_⟩
  rw [exec_eq]
  rcases runCommand_cases .init (writesOf .init) s with ⟨e, -, h⟩ | ⟨-, -, h⟩ | ⟨-, -, h⟩ <;> exact ⟨_, h, rfl⟩

/-- Settles O47: irq reads IE and DONE, and the two writes set them. -/
theorem interruptLine : Obligations.InterruptLine := by
  refine ⟨fun s => ?_, rfl, fun s hline => ⟨⟨_, hostWrite_ctrl 1 hline, ?_⟩, ⟨_, hostWrite_ctrl 0 hline, ?_, rfl⟩,
    _, hostWrite_status 2 hline, ?_⟩⟩
  · rw [getLsbD_ctrl, getLsbD_status]
    simp [State.irq]
  · simp [State.irq]
  · simp [State.irq]
  · simp [State.irq]

/-! ### The step and the decoded command -/

/-- An idle engine takes the next input. -/
theorem step_of_idle {s : State} {e : Event} {rest : List Event} (hbusy : s.busy = false) (hev : s.events = e :: rest) :
    step s = takeEvent e (dropEvent s) := by
  simp [step, nextMover, hev, hbusy]

/-- A pending command that is due is performed. -/
theorem step_of_due {s : State} (hbusy : s.busy = true) (hdue : s.events = [] ∨ s.delay = 0) : step s = engineStep s := by
  rcases step_cases s with ⟨-, -, h⟩ | ⟨e, rest, hev, hdelay, -⟩ | ⟨-, hidle, -⟩
  · exact h
  · simp [hev, hdelay hbusy] at hdue
  · simp [hidle] at hbusy

/-- A CMD write of a command's word on an idle engine is exec of the command (R118). -/
theorem step_of_cmd_write {s : State} {v : Word} {i : Instr} {rest : List Event} (hbusy : s.busy = false)
    (hline : s.resetLine = false) (hev : s.events = .write 8 0x300 v :: rest) (hdec : decode v = .ok i) :
    step s = exec i { s with events := rest, delay := s.delay - 1, responses := .written :: s.responses } := by
  have hsubmit : submit v (afterWrite s) = exec i (afterWrite s) := by simp [submit, hbusy, hdec]
  have hrest : s.events.tail = rest := by rw [hev]; rfl
  rw [step_of_idle hbusy hev, takeEvent, hostWrite_cmd (s := dropEvent s) v hline, hsubmit, ← hrest]
  rfl

/-- A table word that decodes is the 64-bit word of its command. -/
theorem decode_of_decodeTableWord {nbits w : Nat} {i : Instr} (h : decodeTableWord nbits w = some i) :
    decode (BitVec.ofNat 64 (w % 2 ^ nbits)) = .ok i := by
  unfold decodeTableWord at h
  split at h
  · cases hd : decode (BitVec.ofNat 64 (w % 2 ^ nbits)) with
    | error e => simp [hd, Except.toOption] at h
    | ok j => simpa [hd, Except.toOption] using h
  · cases h

/-- Settles O53: the Engine's step, a CMD write, and a placed word, which is a CMD write. -/
theorem stepRunsTheDecodedCommand : Obligations.StepRunsTheDecodedCommand := by
  refine ⟨fun s v i hbusy hdue hpend hdec => ?_, fun s v i rest hbusy hline hev hdec => ?_, fun s nbits w i hdec => ?_⟩
  · rw [step_of_due hbusy hdue]
    simp [engineStep, hpend, hdec]
  · exact step_of_cmd_write hbusy hline hev hdec
  · exact step_of_cmd_write (s := s.withFetchWord nbits w) rfl rfl rfl (decode_of_decodeTableWord hdec)

end Sys2Proof.Machine

namespace Sys2Proof.Machine

/-! ### The register map (20_memory.md R35 to R37) -/

/-- Every register is found at its own offset. -/
theorem regAt_offset (r : Reg) : regAt r.offset = some r := by
  have ha : ∀ i : Fin 25, regAt (Reg.a i).offset = some (.a i) := by decide
  have hb : ∀ j : Fin 17, regAt (Reg.b j).offset = some (.b j) := by decide
  have hd : ∀ k : Fin 4, regAt (Reg.d k).offset = some (.d k) := by decide
  cases r with
  | a i => exact ha i
  | b j => exact hb j
  | d k => exact hd k
  | cmd | status | ctrl | blkcnt | rcout => rfl

theorem offset_lt_windowSize (r : Reg) : r.offset < Config.windowSize := by
  cases r <;> simp only [Reg.offset, Config.windowSize] <;> omega

theorem inWindow_offset (r : Reg) : inWindow (r.offset : Int) = true := by
  have := offset_lt_windowSize r
  simp only [inWindow, Bool.and_eq_true, decide_eq_true_eq]
  omega

theorem target_of_offset (r : Reg) : target 8 (r.offset : Int) = some r := by
  simp [target, regAt_offset]

/-- A misaligned or reserved offset holds no register, since no register's own offset is one. -/
theorem regAt_reserved {off : Nat}
    (h : off % 8 ≠ 0 ∨ (0x0C8 ≤ off ∧ off ≤ 0x0F8) ∨ (0x188 ≤ off ∧ off ≤ 0x1F8) ∨ (0x220 ≤ off ∧ off ≤ 0x2F8) ∨
      0x328 ≤ off) : regAt off = none := by
  rw [Option.eq_none_iff_forall_ne_some]
  intro r hr
  have hoff := regAt_some hr
  cases r <;> simp only [Reg.offset] at hoff <;> omega

theorem readable_iff (r : Reg) : r.readable = true ↔ r ≠ .cmd := by
  cases r <;> simp [Reg.readable]

theorem writable_eq_false_iff (r : Reg) : r.writable = false ↔ (∃ k, r = .d k) ∨ r = .blkcnt ∨ r = .rcout := by
  cases r <;> simp [Reg.writable]

/-- Settles O40: each register is at its own offset, and nothing is anywhere else. -/
theorem registerMap : Obligations.RegisterMap := by
  refine ⟨fun i => regAt_offset (.a i), fun j => regAt_offset (.b j), fun k => regAt_offset (.d k), regAt_offset .cmd,
    regAt_offset .status, regAt_offset .ctrl, regAt_offset .blkcnt, regAt_offset .rcout, fun off _ h => regAt_reserved h,
    fun r => ⟨regAt_offset r, offset_lt_windowSize r⟩, fun x y => ?_, readable_iff, writable_eq_false_iff⟩
  simp [Reg.offset, laneIndex]

/-! ### Reads and writes of an idle engine (20_memory.md R39, R43) -/

/-- Outside reset an 8-byte Host read of a readable register is that register's read. -/
theorem hostRead_offset {r : Reg} {s : State} (hline : s.resetLine = false) (hr : r.readable = true) :
    hostRead 8 (r.offset : Int) s = .next (readReg r s) := by
  simp [hostRead, hline, inWindow_offset, target_of_offset, hr]

/-- While the engine is idle a permitted read returns the register's value (R39). -/
theorem readReg_of_idle (r : Reg) {s : State} (hbusy : s.busy = false) :
    readReg r s = respond (.data (readValue s r)) s := by
  simp [readReg, hbusy]

/-- A read of an idle engine at a readable register's offset returns the value and changes nothing else (R39). -/
theorem hostRead_of_idle {s : State} (hbusy : s.busy = false) (hline : s.resetLine = false) {off : Int} (r : Reg)
    (hoff : off = (r.offset : Int)) (hr : r.readable = true) :
    hostRead 8 off s = .next (respond (.data (readValue s r)) s) := by
  rw [hoff, hostRead_offset hline hr, readReg_of_idle r hbusy]

/-- Outside reset an 8-byte Host write of a writable register is that register's write. -/
theorem hostWrite_offset {r : Reg} {s : State} (v : Word) (hline : s.resetLine = false) (hw : r.writable = true) :
    hostWrite 8 (r.offset : Int) v s = writeReg r v (respond .written s) :=
  hostWrite_of_target v hline (inWindow_offset r) (target_of_offset r) hw

/-- The CTRL word is IE as a number (R25). -/
theorem ctrl_eq (s : State) : s.ctrl = if s.ie then 1 else 0 := rfl

/-- What a read returns does not depend on what the Host has received. -/
@[simp] theorem readValue_respond (x : BusResponse) (s : State) (r : Reg) : readValue (respond x s) r = readValue s r := by
  cases r <;> rfl

/-- Setting one lane changes what a read of that lane returns, and no other read. -/
theorem readValue_set_a (s : State) (i : Fin 25) (v : Word) (r : Reg) :
    readValue { s with a := s.a.set i.val v } r = if r = .a i then v else readValue s r := by
  cases r with
  | a k => simp [readValue, Vector.getElem_set, Fin.ext_iff, eq_comm]
  | b _ | d _ | cmd | status | ctrl | blkcnt | rcout => rfl

/-- Setting one word of B changes what a read of that word returns, and no other read. -/
theorem readValue_set_b (s : State) (j : Fin 17) (v : Word) (r : Reg) :
    readValue { s with b := s.b.set j.val v } r = if r = .b j then v else readValue s r := by
  cases r with
  | b k => simp [readValue, Vector.getElem_set, Fin.ext_iff, eq_comm]
  | a _ | d _ | cmd | status | ctrl | blkcnt | rcout => rfl

/-- A write of A or B on an idle engine changes what a read of that register returns, and no other read (R39). -/
theorem writeReg_storage {r : Reg} (h : (∃ i, r = .a i) ∨ ∃ j, r = .b j) (v : Word) {s : State} (hbusy : s.busy = false) :
    ∃ t, writeReg r v s = .next t ∧ t.busy = false ∧ t.resetLine = s.resetLine ∧ t.responses = s.responses ∧
      ∀ r', readValue t r' = if r' = r then v else readValue s r' := by
  rcases h with ⟨i, rfl⟩ | ⟨j, rfl⟩
  · exact ⟨{ s with a := s.a.set i.val v }, by simp [writeReg, hbusy], hbusy, rfl, rfl, readValue_set_a s i v⟩
  · exact ⟨{ s with b := s.b.set j.val v }, by simp [writeReg, hbusy], hbusy, rfl, rfl, readValue_set_b s j v⟩

/-- Settles O42: every clause is the one idle read, at the offset of its register. -/
theorem idleReads : Obligations.IdleReads := by
  intro s hbusy hline
  have hread := @hostRead_of_idle s hbusy hline
  refine ⟨fun i => hread (.a i) ?_ rfl, fun j => hread (.b j) ?_ rfl, fun k => hread (.d k) ?_ rfl,
    hread .status rfl rfl, ctrl_eq s ▸ hread .ctrl rfl rfl, hread .blkcnt rfl rfl, hread .rcout rfl rfl⟩ <;>
    simp only [Reg.offset] <;> omega

/-- Settles O44: the write leaves an idle engine whose reads differ at the written register only. -/
theorem readAfterWrite : Obligations.ReadAfterWrite := by
  intro s r r' v hbusy hline hr hread
  obtain ⟨t, hwrite, hidle, htline, hresp, hvalue⟩ := writeReg_storage hr v (s := respond .written s) hbusy
  have hw : r.writable = true := by rcases hr with ⟨i, rfl⟩ | ⟨j, rfl⟩ <;> rfl
  refine ⟨t, respond (.data (readValue t r')) t, ?_, hostRead_of_idle hidle (htline.trans hline) r' rfl hread, ?_⟩
  · rw [hostWrite_offset v hline hw, hwrite]
  · rw [respond_responses, hvalue, hresp, respond_responses, readValue_respond]

/-! ### Bytes, words and blocks bit by bit (20_memory.md R40, R41; 41_lane_mapper.md R67) -/

/-- Pieces of `k` bits, the first lowest: bit `n` is bit `n mod k` of piece `n div k`, and 0 beyond the pieces. This is the shape of
both `joinWords` and `le64`. -/
theorem getLsbD_foldr_shiftLeft_or {k m : Nat} (hk : 0 < k) (ws : List (BitVec k)) {n : Nat} (hn : n < m) :
    (ws.foldr (fun w (rest : BitVec m) => (rest <<< k) ||| w.setWidth m) 0).getLsbD n = (ws.getD (n / k) 0).getLsbD (n % k) := by
  induction ws generalizing n with
  | nil => simp
  | cons w ws ih =>
    rw [List.foldr_cons, BitVec.getLsbD_or, BitVec.getLsbD_shiftLeft, BitVec.getLsbD_setWidth]
    by_cases hlow : n < k
    · simp [hn, hlow, Nat.div_eq_of_lt hlow, Nat.mod_eq_of_lt hlow]
    · have hge : k ≤ n := Nat.le_of_not_lt hlow
      have hdiv : n / k = (n - k) / k + 1 := Nat.div_eq_sub_div hk hge
      rw [ih (by omega), hdiv, List.getD_cons_succ, ← Nat.mod_eq_sub_mod hge, BitVec.getLsbD_of_ge w n hge]
      simp [hn, hlow]

theorem getLsbD_joinWords {m : Nat} (ws : List Word) {n : Nat} (hn : n < m) :
    (joinWords m ws).getLsbD n = (ws.getD (n / 64) 0).getLsbD (n % 64) :=
  getLsbD_foldr_shiftLeft_or (by decide) ws hn

/-- Bit n of the block is bit n mod 64 of word n div 64 of the buffer (R15, R60). -/
theorem getLsbD_blockOf (B : BlockBuf) {n : Nat} (hn : n < 1088) :
    (blockOf B).getLsbD n = B[n / 64].getLsbD (n % 64) := by
  rw [blockOf, getLsbD_joinWords _ hn, List.getD_eq_getElem _ _ (by simp; omega), Vector.getElem_toList]

/-- Bit n of a little-endian word is bit n mod 8 of byte n div 8 (R40). -/
theorem getLsbD_le64 (bytes : List Byte) {n : Nat} (hn : n < 64) :
    (le64 bytes).getLsbD n = (bytes.getD (n / 8) 0).getLsbD (n % 8) := by
  rw [le64, getLsbD_foldr_shiftLeft_or (by decide) _ hn, List.getD_eq_getElem?_getD, List.getD_eq_getElem?_getD,
    List.getElem?_take_of_lt (by omega)]

/-- Bit n of LOADBLK's word j is a bit of message byte 8j + n div 8 (R41, R55). -/
theorem getLsbD_blockWord (m : List Byte) (j : Nat) {n : Nat} (hn : n < 64) :
    (blockWord m j).getLsbD n = (m.getD (8 * j + n / 8) 0).getLsbD (n % 8) := by
  rw [blockWord, getLsbD_le64 _ hn, List.getD_eq_getElem?_getD, List.getElem?_drop, List.getD_eq_getElem?_getD]

/-- Bit n of the block LOADBLK writes is bit n mod 8 of message byte n div 8 (R41, R67). -/
theorem getLsbD_loadedBlock (m : List Byte) {n : Nat} (hn : n < 1088) :
    (blockOf (Vector.ofFn fun j : Fin 17 => blockWord m j.val)).getLsbD n = (m.getD (n / 8) 0).getLsbD (n % 8) := by
  rw [getLsbD_blockOf _ hn, Vector.getElem_ofFn, getLsbD_blockWord m _ (by omega),
    show 8 * (n / 64) + n % 64 / 8 = n / 8 by omega, show n % 64 % 8 = n % 8 by omega]

/-- Bit n of a bit string's value is its bit n, 0 beyond its end (R9). -/
theorem testBit_bitsValue (bits : List Bool) (n : Nat) : (bitsValue bits).testBit n = bits.getD n false := by
  induction bits generalizing n with
  | nil => simp [bitsValue]
  | cons b bits ih =>
    cases n with
    | zero => cases b <;> simp [bitsValue, Nat.testBit_zero]
    | succ n =>
      have hhalf : (b.toNat + 2 * bitsValue bits) / 2 = bitsValue bits := by
        cases b
        · simp
        · simp only [Bool.toNat_true]
          omega
      rw [bitsValue, Nat.testBit_add_one, hhalf, ih, List.getD_cons_succ]

theorem getLsbD_blockOfBits (bits : List Bool) {n : Nat} (hn : n < 1088) :
    (blockOfBits bits).getLsbD n = bits.getD n false := by
  rw [blockOfBits, BitVec.getLsbD_ofNat, testBit_bitsValue, decide_eq_true hn, Bool.true_and]

/-- Bit n of the message is bit n mod 8 of byte n div 8, 0 beyond its end (R67). -/
theorem getD_messageBits (m : List Byte) (n : Nat) :
    (messageBits m).getD n false = (m.getD (n / 8) 0).getLsbD (n % 8) := by
  induction m generalizing n with
  | nil => simp [messageBits]
  | cons t m ih =>
    have hcons : messageBits (t :: m) = (List.range 8).map t.getLsbD ++ messageBits m := List.flatMap_cons
    have hlen : ((List.range 8).map t.getLsbD).length = 8 := by simp
    rw [hcons]
    by_cases hn : n < 8
    · rw [List.getD_append _ _ _ _ (by omega), Nat.div_eq_of_lt hn, Nat.mod_eq_of_lt hn]
      simp [hn]
    · have hge : 8 ≤ n := Nat.le_of_not_lt hn
      rw [List.getD_append_right _ _ _ _ (by omega), hlen, ih, Nat.div_eq_sub_div (by decide) hge,
        List.getD_cons_succ, ← Nat.mod_eq_sub_mod hge]

/-- Settles O33: both clauses compare bits of the loaded block with bits of the message bytes. -/
theorem bytesFillTheBlock : Obligations.BytesFillTheBlock := by
  intro m _
  refine ⟨fun k hk => BitVec.eq_of_getLsbD_eq fun b hb => ?_, BitVec.eq_of_getLsbD_eq fun n hn => ?_⟩
  · rw [BitVec.getLsbD_extractLsb', getLsbD_loadedBlock m (by omega), show (8 * k + b) / 8 = k by omega,
      show (8 * k + b) % 8 = b by omega, decide_eq_true hb, Bool.true_and]
  · rw [getLsbD_loadedBlock m hn, getLsbD_blockOfBits _ hn, getD_messageBits]

end Sys2Proof.Machine

namespace Sys2Proof

/-! ### Which row of the opcode map accepts a word (30_encoding.md R51, R52) -/

theorem OpRow.accepts_iff (r : OpRow) (v : Word) : r.accepts v = true ↔ v &&& r.mask = r.matchBits := beq_iff_eq

/-- Every mask keeps the whole byte OP, so a row accepts only words of its own opcode. -/
theorem opField_of_row {r : OpRow} {v : Word} (hr : r ∈ opmap) (h : v &&& r.mask = r.matchBits) :
    opField r.matchBits = opField v := by
  have hmask : ∀ r ∈ opmap, opField r.mask = BitVec.allOnes 8 := by decide
  have hand : opField (v &&& r.mask) = opField v &&& opField r.mask := BitVec.extractLsb'_and
  rw [← h, hand, hmask r hr, BitVec.and_allOnes]

/-- No two rows have the same opcode. -/
theorem row_eq_of_opField_eq {r r' : OpRow} (hr : r ∈ opmap) (hr' : r' ∈ opmap)
    (h : opField r.matchBits = opField r'.matchBits) : r = r' :=
  List.inj_on_of_nodup_map (f := fun r => opField r.matchBits) (l := opmap) (by decide) hr hr' h

/-- At most one row accepts a word. -/
theorem row_unique {r r' : OpRow} {v : Word} (hr : r ∈ opmap) (h : v &&& r.mask = r.matchBits)
    (hr' : r' ∈ opmap) (h' : v &&& r'.mask = r'.matchBits) : r = r' :=
  row_eq_of_opField_eq hr hr' ((opField_of_row hr h).trans (opField_of_row hr' h').symm)

/-! ### The decoder's three answers (30_encoding.md R52, R54) -/

/-- The row that accepts a word decodes it. -/
theorem decode_of_row {r : OpRow} {v : Word} (hr : r ∈ opmap) (h : v &&& r.mask = r.matchBits) :
    decode v = .ok (r.build v) := by
  unfold decode
  cases hfind : opmap.find? (·.accepts v) with
  | none => exact absurd ((r.accepts_iff v).2 h) (List.find?_eq_none.1 hfind r hr)
  | some r' =>
    have h' : v &&& r'.mask = r'.matchBits := (r'.accepts_iff v).1 (by simpa using List.find?_some hfind)
    rw [row_unique hr h (List.mem_of_find?_eq_some hfind) h']

/-- A word that no row accepts is refused, under a name that says whether its opcode is defined. -/
theorem decode_of_no_row {v : Word} (h : ∀ r ∈ opmap, v &&& r.mask ≠ r.matchBits) :
    decode v = .error (if ∃ r ∈ opmap, opField r.matchBits = opField v then .unusedBitSet else .undefinedOpcode) := by
  have hfind : opmap.find? (·.accepts v) = none :=
    List.find?_eq_none.2 fun r hr hacc => h r hr ((r.accepts_iff v).1 hacc)
  rw [decode, hfind, apply_ite Except.error]
  simp only [List.any_eq_true, beq_iff_eq]

/-- A word whose opcode no row has is refused as an undefined opcode. -/
theorem decode_of_undefined_opcode {v : Word} (h : ∀ r ∈ opmap, opField r.matchBits ≠ opField v) :
    decode v = .error .undefinedOpcode := by
  rw [decode_of_no_row fun r hr hacc => h r hr (opField_of_row hr hacc), if_neg fun ⟨r, hr, hop⟩ => h r hr hop]

/-- A word with a row's opcode that the row does not accept is refused for a further bit. -/
theorem decode_of_further_bit {r : OpRow} {v : Word} (hr : r ∈ opmap) (hop : opField r.matchBits = opField v)
    (h : v &&& r.mask ≠ r.matchBits) : decode v = .error .unusedBitSet := by
  have hnone : ∀ r' ∈ opmap, v &&& r'.mask ≠ r'.matchBits := fun r' hr' hacc =>
    h (row_eq_of_opField_eq hr hr' (hop.trans (opField_of_row hr' hacc).symm) ▸ hacc)
  rw [decode_of_no_row hnone, if_pos ⟨r, hr, hop⟩]

/-! ### The decoder gives back the command the encoder wrote (30_encoding.md R49, R51) -/

/-- A field put behind the opcode is read back from its place. -/
theorem extractLsb'_or_shiftLeft (op : BitVec 8) {w n : Nat} (field : BitVec w) (hn : 8 ≤ n) (hw : n + w ≤ 64) :
    (op.setWidth 64 ||| (field.setWidth 64 <<< n)).extractLsb' n w = field := by
  refine BitVec.eq_of_getLsbD_eq fun k hk => ?_
  have hop : op.getLsbD (n + k) = false := BitVec.getLsbD_of_ge _ _ (by omega)
  simp [hk, hop, show n + k < 64 by omega]

theorem nbitsField_encode_final (nbits : BitVec 11) : nbitsField (encode (.final nbits)) = nbits :=
  extractLsb'_or_shiftLeft _ nbits (by decide) (by decide)

theorem ridxField_or_placeRidx (op : BitVec 8) (ridx : BitVec 5) :
    ridxField (op.setWidth 64 ||| placeRidx ridx) = ridx :=
  extractLsb'_or_shiftLeft op ridx (by decide) (by decide)

/-- Bits that a mask lets vary do not disturb the fixed bits: the converse of `or_free_bits_of_and_mask_eq`. -/
theorem and_mask_eq_of_or_free_bits {v mask fixed : Word} (hfixed : fixed &&& mask = fixed)
    (h : fixed ||| (v &&& ~~~mask) = v) : v &&& mask = fixed := by
  have hbits : (fixed ||| (v &&& ~~~mask)) &&& mask = fixed &&& mask := by
    ext k
    simp only [BitVec.getElem_or, BitVec.getElem_and, BitVec.getElem_not]
    cases fixed[k] <;> cases v[k] <;> cases mask[k] <;> rfl
  rw [← hfixed, ← hbits, h]

/-- The word of FINAL is accepted by FINAL's row. -/
theorem encode_final_and_mask (nbits : BitVec 11) : encode (.final nbits) &&& maskNbits = 0x03 := by
  refine and_mask_eq_of_or_free_bits (by decide) ?_
  rw [← placeNbits_nbitsField, nbitsField_encode_final]
  rfl

/-- An opcode with a round index in its place keeps the opcode under the mask of ROUND, IOTA and RCGEN. -/
theorem or_placeRidx_and_mask (op : BitVec 8) (ridx : BitVec 5) (hop : op.setWidth 64 &&& maskRidx = op.setWidth 64) :
    (op.setWidth 64 ||| placeRidx ridx) &&& maskRidx = op.setWidth 64 := by
  refine and_mask_eq_of_or_free_bits hop ?_
  rw [← placeRidx_ridxField, ridxField_or_placeRidx]

/-- The word of every command is accepted by a row, which reads the command's operand back. -/
theorem exists_row_of_encode (i : Instr) :
    ∃ r ∈ opmap, encode i &&& r.mask = r.matchBits ∧ r.build (encode i) = i := by
  cases i with
  | nop | init | absorb | permute | theta | rho | pi | chi => decide
  | final nbits =>
    exact ⟨opmap[3], List.getElem_mem _, encode_final_and_mask nbits, congrArg Instr.final (nbitsField_encode_final nbits)⟩
  | round ridx =>
    exact ⟨opmap[5], List.getElem_mem _, or_placeRidx_and_mask 0x11 ridx (by decide),
      congrArg Instr.round (ridxField_or_placeRidx 0x11 ridx)⟩
  | iota ridx =>
    exact ⟨opmap[10], List.getElem_mem _, or_placeRidx_and_mask 0x16 ridx (by decide),
      congrArg Instr.iota (ridxField_or_placeRidx 0x16 ridx)⟩
  | rcgen ridx =>
    exact ⟨opmap[11], List.getElem_mem _, or_placeRidx_and_mask 0x17 ridx (by decide),
      congrArg Instr.rcgen (ridxField_or_placeRidx 0x17 ridx)⟩

/-- Settles O1: the row that accepts the command's word is the one that decodes it. -/
theorem decodeOfEncode : Obligations.DecodeOfEncode := by
  intro i
  obtain ⟨r, hr, hacc, hbuild⟩ := exists_row_of_encode i
  rw [decode_of_row hr hacc, hbuild]

/-- Settles O2: every row builds a command whose word is the one the row accepted. -/
theorem encodeOfDecode : Obligations.EncodeOfDecode :=
  fun _ _ => encode_eq_of_decode

/-- Settles O3, reading the rows off the map. -/
theorem opcodeMapRows : Obligations.OpcodeMapRows :=
  ⟨rfl, fun _ => rfl⟩

/-- Settles O4, by evaluating the decoder on each word. -/
theorem wordsDecodeAsEncoded : Obligations.WordsDecodeAsEncoded := by
  unfold Obligations.WordsDecodeAsEncoded
  decide

end Sys2Proof

namespace Sys2Proof.Machine

/-! ### A CMD write on an idle engine (30_encoding.md R52, R54) -/

/-- A word that a row accepts is handled as the row's command. -/
theorem submit_of_row {r : OpRow} {v : Word} {s : State} (hbusy : s.busy = false) (hr : r ∈ opmap)
    (h : v &&& r.mask = r.matchBits) : submit v s = exec (r.build v) s := by
  simp [submit, hbusy, decode_of_row hr h]

/-- A word that no row accepts is rejected with ILLEGAL. -/
theorem submit_of_no_row {v : Word} {s : State} (hbusy : s.busy = false)
    (h : ∀ r ∈ opmap, v &&& r.mask ≠ r.matchBits) : submit v s = .next (rejectCommand .illegal s) := by
  simp [submit, hbusy, decode_of_no_row h]

/-- Settles O5: the row is run, it is the only one, and without one the word is rejected. -/
theorem submitFollowsTheOpcodeMap : Obligations.SubmitFollowsTheOpcodeMap := by
  refine fun v s hbusy => ⟨fun r hr h => ⟨submit_of_row hbusy hr h, fun r' hr' h' => ?_⟩, submit_of_no_row hbusy⟩
  rw [row_unique hr h hr' h']

/-- The opcodes of the map leave out 0x04 to 0x0F and all from 0x18 on (R51, R54). -/
theorem opField_of_mem_opmap : ∀ r ∈ opmap, (opField r.matchBits).toNat < 0x04 ∨
    (0x10 ≤ (opField r.matchBits).toNat ∧ (opField r.matchBits).toNat < 0x18) := by
  decide

/-- Settles O6: each name of the refusal from what the opcode map says of the word's opcode, and the word of NOP from the
round trips of encoder and decoder. -/
theorem illegalWordsAreRefused : Obligations.IllegalWordsAreRefused := by
  refine fun v => ⟨fun h => ⟨⟨_, decode_of_no_row h⟩, fun s hbusy => submit_of_no_row hbusy h⟩, fun hop => ?_,
    fun r hr hop h => decode_of_further_bit hr hop.symm h, fun h => ?_, ?_⟩
  · refine decode_of_undefined_opcode fun r hr heq => ?_
    have hdefined := opField_of_mem_opmap r hr
    rw [heq] at hdefined
    omega
  · exact (encode_eq_of_decode h).symm
  · rintro rfl
    exact decodeOfEncode .nop

/-! ### The operand range check (30_encoding.md R53) -/

/-- An operand out of range is the one thing the range check refuses, and it refuses it with BADARG. -/
theorem argCheck_of_not_wellFormed {i : Instr} (h : ¬ i.WellFormed) : argCheck i = some .badarg := by
  cases i <;> simp_all [argCheck, nbitsCheck, ridxCheck, Instr.WellFormed, Instr.wellFormed]

/-- A command whose operand is out of range is rejected with BADARG, in either phase. -/
theorem exec_of_not_wellFormed {i : Instr} (s : State) (h : ¬ i.WellFormed) :
    exec i s = .next (rejectCommand .badarg s) := by
  rw [exec_eq, runCommand_rejected]
  rw [admission, argCheck_of_not_wellFormed h]

/-- An idle engine accepts a command whose operand is in range and whose phase is the one it needs. -/
theorem exec_of_wellFormed {i : Instr} {s : State} (hbusy : s.busy = false) (h : i.WellFormed)
    (hphase : needsAbsorbing i = true → s.dvalid = false) : exec i s = .next (accept i s) := by
  rw [exec_eq, runCommand_accepted _ ((admission_none_iff i s).2 ⟨h, hphase⟩) hbusy]

/-- ROUND, IOTA and RCGEN are well-formed with a round index of at most 23, and are taken in either phase. -/
theorem ridx_command_checks {r : BitVec 5} {i : Instr} (hi : i ∈ [Instr.round r, .iota r, .rcgen r]) :
    (i.WellFormed ↔ r.toNat ≤ 23) ∧ needsAbsorbing i = false := by
  simp only [List.mem_cons, List.not_mem_nil, or_false] at hi
  rcases hi with rfl | rfl | rfl <;> exact ⟨decide_eq_true_iff, rfl⟩

/-- FINAL is well-formed with a length of at most 1087. -/
theorem final_wellFormed_iff (n : BitVec 11) : (Instr.final n).WellFormed ↔ n.toNat ≤ 1087 := decide_eq_true_iff

/-- Settles O7: the range check is the assembler's, so each clause is a rejection or an acceptance by `WellFormed`. -/
theorem operandRangeChecks : Obligations.OperandRangeChecks := by
  refine fun s => ⟨fun r hr i hi => ?_, fun n hn => ?_, fun r hr hbusy i hi => ?_, fun n hn hbusy hphase => ?_⟩
  · obtain ⟨hwf, -⟩ := ridx_command_checks hi
    exact exec_of_not_wellFormed s (mt hwf.1 (Nat.not_le.2 hr))
  · exact exec_of_not_wellFormed s (mt (final_wellFormed_iff n).1 (Nat.not_le.2 hn))
  · obtain ⟨hwf, hfree⟩ := ridx_command_checks hi
    exact ⟨_, exec_of_wellFormed hbusy (hwf.2 hr) (by simp [hfree]), rfl, rfl, rfl⟩
  · exact ⟨_, exec_of_wellFormed hbusy ((final_wellFormed_iff n).2 hn) fun _ => hphase, rfl, rfl, rfl⟩

end Sys2Proof.Machine

namespace Sys2Proof.Machine

/-! ### The padding rule pad10*1 (40_padding.md R56, R57) -/

/-- The 0 bits of the padding fill the string up to the last bit of a block, and are fewer than a block (R56). -/
theorem padZeros_spec (n : Nat) : (n + 1 + padZeros n) % 1088 = 1087 ∧ padZeros n < 1088 := by
  unfold padZeros
  omega

/-- The count of 0 bits depends only on the message's length modulo 1088 (R61). -/
theorem padZeros_mod (n : Nat) : padZeros (n % 1088) = padZeros n := by
  have hn := padZeros_spec n
  have hmod := padZeros_spec (n % 1088)
  omega

@[simp] theorem length_padding (n : Nat) : (padding n).length = padZeros n + 2 := by
  simp [padding]

theorem length_padded (M : List Bool) : (padded M).length = M.length + padZeros M.length + 2 := by
  rw [padded, List.length_append, length_padding, Nat.add_assoc]

/-- The padded string is a whole number of blocks: one more than the message fills, or two where only the padding's first bit fits
behind the message (R57). -/
theorem length_padded_blocks (M : List Bool) :
    (padded M).length = 1088 * (M.length / 1088 + if M.length % 1088 = 1087 then 2 else 1) := by
  have hpad := padZeros_spec M.length
  rw [length_padded]
  split <;> omega

theorem getElem?_padding (n k : Nat) : (padding n)[k]? =
    if k = 0 ∨ k = padZeros n + 1 then some true else if k < padZeros n + 1 then some false else none := by
  cases k with
  | zero => simp [padding]
  | succ k =>
    rw [padding, List.getElem?_cons_succ, List.getElem?_append, List.length_replicate, List.getElem?_replicate]
    rcases Nat.lt_trichotomy k (padZeros n) with hlt | rfl | hgt
    · simp [hlt, Nat.ne_of_lt hlt]
    · simp
    · rw [if_neg (by omega), if_neg (by omega), if_neg (by omega), List.getElem?_eq_none (by simp; omega)]

/-- The padded string bit by bit (R56). -/
theorem getElem?_padded (M : List Bool) (i : Nat) : (padded M)[i]? =
    if i < M.length then M[i]?
    else if i = M.length ∨ i = M.length + padZeros M.length + 1 then some true
    else if i < M.length + padZeros M.length + 1 then some false
    else none := by
  rw [padded, List.getElem?_append, getElem?_padding]
  split
  · rfl
  · congr 1
    · exact propext (by omega)
    · congr 1
      exact propext (by omega)

/-- The padded string as a value's bits: behind the message only the padding's two 1 bits are set. -/
theorem getD_padded (M : List Bool) (i : Nat) : (padded M).getD i false =
    if i < M.length then M.getD i false else decide (i = M.length ∨ i = M.length + padZeros M.length + 1) := by
  rw [List.getD_eq_getElem?_getD, getElem?_padded, List.getD_eq_getElem?_getD]
  split
  · rfl
  · split
    · next h => exact (decide_eq_true h).symm
    · next h =>
      rw [decide_eq_false h]
      split <;> rfl

/-- Settles O34: the bits of the padded string and the two facts that fix the count of 0 bits. -/
theorem paddedStringBits : Obligations.PaddedStringBits :=
  fun M => ⟨getElem?_padded M, padZeros_spec M.length⟩

/-! ### A bit string in blocks (40_padding.md R58) -/

@[simp] theorem length_blocksOf (n : Nat) (P : List Bool) : (blocksOf n P).length = n := by
  induction n generalizing P with
  | zero => rfl
  | succ n ih => rw [blocksOf, List.length_cons, ih]

/-- Block i is taken from bit 1088·i on. -/
theorem getElem?_blocksOf {n i : Nat} (P : List Bool) (hi : i < n) :
    (blocksOf n P)[i]? = some (blockOfBits ((P.drop (1088 * i)).take 1088)) := by
  induction n generalizing P i with
  | zero => omega
  | succ n ih =>
    cases i with
    | zero => rfl
    | succ i =>
      rw [blocksOf, List.getElem?_cons_succ, ih _ (by omega), List.drop_drop, Nat.mul_succ, Nat.add_comm 1088]

theorem getD_drop (P : List Bool) (a k : Nat) : (P.drop a).getD k false = P.getD (a + k) false := by
  rw [List.getD_eq_getElem?_getD, List.getElem?_drop, List.getD_eq_getElem?_getD]

/-- A block of a bit string holds the string's next 1088 bits. -/
theorem getLsbD_blockOfBits_take (P : List Bool) {k : Nat} (hk : k < 1088) :
    (blockOfBits (P.take 1088)).getLsbD k = P.getD k false := by
  rw [getLsbD_blockOfBits _ hk, List.getD_eq_getElem?_getD, List.getElem?_take_of_lt hk, List.getD_eq_getElem?_getD]

/-- The blocks of a string, then those of what is left of it. -/
theorem blocksOf_add (a b : Nat) (P : List Bool) :
    blocksOf (a + b) P = blocksOf a P ++ blocksOf b (P.drop (1088 * a)) := by
  induction a generalizing P with
  | zero => simp [blocksOf]
  | succ a ih => rw [Nat.succ_add, blocksOf, blocksOf, ih, List.drop_drop, List.cons_append, Nat.mul_succ, Nat.add_comm 1088]

/-- Blocks that lie within the front of a string do not see what follows it. -/
theorem blocksOf_append {n : Nat} {M : List Bool} (Q : List Bool) (h : 1088 * n ≤ M.length) :
    blocksOf n (M ++ Q) = blocksOf n M := by
  induction n generalizing M with
  | zero => rfl
  | succ n ih =>
    rw [blocksOf, blocksOf, List.take_append_of_le_length (by omega), List.drop_append_of_le_length (by omega),
      ih (by rw [List.length_drop]; omega)]

/-- The block sequence has as many blocks as the padded string fills (R57). -/
theorem length_paddedBlocks (M : List Bool) :
    (paddedBlocks M).length = M.length / 1088 + if M.length % 1088 = 1087 then 2 else 1 := by
  rw [paddedBlocks, length_blocksOf, length_padded_blocks, Nat.mul_div_cancel_left _ (by decide)]

/-- Settles O35: the lengths follow from the length of the padding, its two extremes from what fixes the count of 0 bits. -/
theorem paddingLengths : Obligations.PaddingLengths := by
  intro M
  have hpad := padZeros_spec M.length
  rw [length_paddedBlocks, length_padding, length_padded]
  refine ⟨rfl, ?_, ?_, rfl, ?_, ?_, ?_, ?_, rfl⟩ <;> omega

/-- Settles O36: a block the sequence has is full, and the string ends where the sequence does. -/
theorem blockSequenceBits : Obligations.BlockSequenceBits := by
  intro M i k hk
  have hlen := length_padded_blocks M
  have hcount := length_paddedBlocks M
  by_cases hi : i < (paddedBlocks M).length
  · have hbit : 1088 * i + k < (padded M).length := by omega
    rw [paddedBlocks, getElem?_blocksOf _ (by rwa [paddedBlocks, length_blocksOf] at hi), Option.map_some,
      getLsbD_blockOfBits_take _ hk, getD_drop, List.getD_eq_getElem _ _ hbit, List.getElem?_eq_getElem hbit]
  · rw [List.getElem?_eq_none (by omega), List.getElem?_eq_none (by omega), Option.map_none]

/-! ### The block-boundary aligner (40_padding.md R60, R61) -/

/-- The aligner's mask keeps the message bits below nb (R60). -/
theorem getLsbD_and_lowMask (B : Block) (nb : Nat) {k : Nat} (hk : k < 1088) :
    (B &&& BitVec.ofNat 1088 (2 ^ nb - 1)).getLsbD k = (decide (k < nb) && B.getLsbD k) := by
  rw [BitVec.getLsbD_and, BitVec.getLsbD_ofNat, Nat.testBit_two_pow_sub_one, decide_eq_true hk, Bool.true_and, Bool.and_comm]

/-- A power of two within a block is one 1 bit. -/
theorem getLsbD_twoPow_block (n : Nat) {k : Nat} (hk : k < 1088) :
    (BitVec.twoPow 1088 n).getLsbD k = decide (k = n) := by
  rw [BitVec.getLsbD_twoPow]
  by_cases h : k = n
  · simp [← h, hk]
  · simp [h, Ne.symm h]

/-- A tail that leaves room for both 1 bits ends in one block (R60). -/
theorem align_one_block (B : Block) {nb : Nat} (h : nb ≤ 1086) : ∃ P, align B nb = [P] ∧ ∀ k < 1088, P.getLsbD k =
    if k < nb then B.getLsbD k else decide (k = nb ∨ k = 1087) := by
  refine ⟨_, if_pos h, fun k hk => ?_⟩
  rw [BitVec.getLsbD_xor, BitVec.getLsbD_xor, getLsbD_and_lowMask B nb hk, getLsbD_twoPow_block nb hk,
    getLsbD_twoPow_block 1087 hk]
  split
  · next hlt => simp [hlt, Nat.ne_of_lt hlt, show k ≠ 1087 by omega]
  · next hge =>
    by_cases hnb : k = nb
    · simp [hnb, show nb ≠ 1087 by omega]
    · simp [hnb, hge]

/-- A tail of 1087 bits takes the first 1 bit as its block's last, and a second block that holds the padding's end (R60). -/
theorem align_two_blocks (B : Block) : ∃ P Q, align B 1087 = [P, Q] ∧
    (∀ k < 1088, P.getLsbD k = if k < 1087 then B.getLsbD k else true) ∧ ∀ k < 1088, Q.getLsbD k = decide (k = 1087) := by
  refine ⟨_, _, rfl, fun k hk => ?_, fun k hk => getLsbD_twoPow_block 1087 hk⟩
  rw [BitVec.getLsbD_xor, getLsbD_and_lowMask B 1087 hk, getLsbD_twoPow_block 1087 hk]
  split
  · next hlt => simp [hlt, Nat.ne_of_lt hlt]
  · simp [show k = 1087 by omega]

/-- Settles O37, by the aligner's two branches. -/
theorem alignerBlocks : Obligations.AlignerBlocks := by
  refine fun B nb => ⟨align_one_block B, ?_⟩
  rintro rfl
  exact align_two_blocks B

/-- Cutting whole blocks off the message's front cuts them off the padded string's: the padding is the same (R61). -/
theorem drop_padded {M : List Bool} {k : Nat} (h : 1088 * k ≤ M.length) :
    (padded M).drop (1088 * k) = padded (M.drop (1088 * k)) := by
  have hpad : padding (M.length - 1088 * k) = padding M.length := by
    rw [padding, padding, ← padZeros_mod (M.length - 1088 * k), Nat.sub_mul_mod h, padZeros_mod]
  rw [padded, padded, List.drop_append_of_le_length h, List.length_drop, hpad]

/-- Full blocks at a message's front come unchanged before the blocks of what is left, padded (R61). -/
theorem paddedBlocks_eq_append {M : List Bool} {k : Nat} (h : 1088 * k ≤ M.length) :
    paddedBlocks M = blocksOf k M ++ paddedBlocks (M.drop (1088 * k)) := by
  have hcount : (padded M).length / 1088 = k + (padded (M.drop (1088 * k))).length / 1088 := by
    have hlen := length_padded M
    rw [← drop_padded h, List.length_drop]
    omega
  rw [paddedBlocks, hcount, blocksOf_add, drop_padded h, padded, blocksOf_append _ h, paddedBlocks]

/-- The aligner pads a tail of less than a block as the padding rule does (R60, R61). -/
theorem paddedBlocks_eq_align {T : List Bool} {B : Block} (hT : T.length < 1088)
    (hB : ∀ t < T.length, B.getLsbD t = T.getD t false) : paddedBlocks T = align B T.length := by
  have hpad := padZeros_spec T.length
  have hlen := length_padded T
  by_cases hroom : T.length ≤ 1086
  · obtain ⟨P, hP, hbits⟩ := align_one_block B hroom
    rw [hP, paddedBlocks, show (padded T).length / 1088 = 1 by omega, blocksOf, blocksOf]
    congr 1
    refine BitVec.eq_of_getLsbD_eq fun k hk => ?_
    rw [getLsbD_blockOfBits_take _ hk, getD_padded, hbits k hk, show T.length + padZeros T.length + 1 = 1087 by omega]
    exact ite_congr rfl (fun ht => (hB k ht).symm) fun _ => rfl
  · have hfull : T.length = 1087 := by omega
    obtain ⟨P, Q, hPQ, hP, hQ⟩ := align_two_blocks B
    rw [hfull, hPQ, paddedBlocks, show (padded T).length / 1088 = 2 by omega, blocksOf, blocksOf, blocksOf]
    congr 1
    · refine BitVec.eq_of_getLsbD_eq fun k hk => ?_
      rw [getLsbD_blockOfBits_take _ hk, getD_padded, hP k hk, hfull]
      exact ite_congr rfl (fun ht => (hB k (hfull ▸ ht)).symm) fun _ => decide_eq_true (by omega)
    · congr 1
      refine BitVec.eq_of_getLsbD_eq fun k hk => ?_
      rw [getLsbD_blockOfBits_take _ hk, hQ k hk, getD_drop, getD_padded, if_neg (by omega)]
      exact decide_eq_decide.2 (by omega)

/-- Settles O38: the full blocks come off the front, and the aligner pads the tail. -/
theorem alignerImplementsPadding : Obligations.AlignerImplementsPadding := by
  intro M B hB
  have htail : (M.drop (1088 * (M.length / 1088))).length = M.length % 1088 := by
    rw [List.length_drop]
    omega
  rw [paddedBlocks_eq_append (Nat.mul_div_le M.length 1088), paddedBlocks_eq_align (B := B) (by omega), htail]
  intro t ht
  rw [getD_drop, hB t (htail ▸ ht)]

end Sys2Proof.Machine

namespace Sys2Proof.Machine

/-! ### The lane mapper and the sponge's views of the state (41_lane_mapper.md R62 to R66) -/

/-- Joined words bit by bit, for a vector whose words reach the bit asked for. -/
theorem getLsbD_joinWords_toList {m n : Nat} (v : Vector Word n) {k : Nat} (hm : k < m) (hk : k < 64 * n) :
    (joinWords m v.toList).getLsbD k = (v[k / 64]'(by omega)).getLsbD (k % 64) := by
  rw [getLsbD_joinWords _ hm, List.getD_eq_getElem _ _ (by rw [Vector.length_toList]; omega), Vector.getElem_toList]

/-- The 64 bits from 64·i of joined words are word i. -/
theorem extractLsb'_joinWords {m n : Nat} (v : Vector Word n) (hm : 64 * n ≤ m) {i : Nat} (hi : i < n) :
    (joinWords m v.toList).extractLsb' (64 * i) 64 = v[i] := by
  refine BitVec.eq_of_getLsbD_eq fun z hz => ?_
  have hdiv : (64 * i + z) / 64 = i := by omega
  have hmod : (64 * i + z) % 64 = z := by omega
  rw [BitVec.getLsbD_extractLsb', decide_eq_true hz, Bool.true_and, getLsbD_joinWords_toList v (by omega) (by omega)]
  simp only [hdiv, hmod]

/-- Words as digits in base 2^64 make a number of 64 bits a word. -/
theorem ofDigits_words_lt (ws : List Word) : Nat.ofDigits (2 ^ 64) (ws.map BitVec.toNat) < 2 ^ (64 * ws.length) := by
  rw [Nat.pow_mul, ← List.length_map (as := ws) BitVec.toNat]
  refine Nat.ofDigits_lt_base_pow_length (by decide) fun d hd => ?_
  obtain ⟨w, -, rfl⟩ := List.mem_map.1 hd
  exact w.isLt

/-- The value of joined words, when they all fit: the words are its digits in base 2^64, the first lowest. -/
theorem toNat_joinWords {m : Nat} (ws : List Word) (h : 64 * ws.length ≤ m) :
    (joinWords m ws).toNat = Nat.ofDigits (2 ^ 64) (ws.map BitVec.toNat) := by
  induction ws with
  | nil => simp [joinWords]
  | cons w ws ih =>
    rw [List.length_cons] at h
    have hrest := ih (by omega)
    have hlt : (joinWords m ws).toNat < 2 ^ (64 * ws.length) := hrest ▸ ofDigits_words_lt ws
    have hshift : (joinWords m ws).toNat <<< 64 < 2 ^ m := by
      rw [Nat.shiftLeft_eq]
      calc (joinWords m ws).toNat * 2 ^ 64 < 2 ^ (64 * ws.length) * 2 ^ 64 := Nat.mul_lt_mul_of_pos_right hlt (by decide)
        _ = 2 ^ (64 * ws.length + 64) := (Nat.pow_add ..).symm
        _ ≤ 2 ^ m := Nat.pow_le_pow_right (by decide) (by omega)
    have hw : w.toNat < 2 ^ m := w.isLt.trans_le (Nat.pow_le_pow_right (by decide) (by omega))
    have hcons : joinWords m (w :: ws) = (joinWords m ws <<< 64) ||| w.setWidth m := rfl
    rw [hcons, BitVec.toNat_or, BitVec.toNat_shiftLeft, BitVec.toNat_setWidth, Nat.mod_eq_of_lt hshift, Nat.mod_eq_of_lt hw,
      ← Nat.shiftLeft_add_eq_or_of_lt w.isLt, Nat.shiftLeft_eq, hrest, List.map_cons, Nat.ofDigits_cons]
    simp [Nat.add_comm, Nat.mul_comm]

/-- Flat bit k is bit k mod 64 of lane k div 64 (R62). -/
theorem getLsbD_flat (A : Lanes) {k : Nat} (hk : k < 1600) : (flat A).getLsbD k = A[k / 64].getLsbD (k % 64) :=
  getLsbD_joinWords_toList A hk hk

/-- Lane i is the 64 bits from 64·i (R63). -/
@[simp] theorem getElem_lanes (S : Flat) {i : Nat} (hi : i < 25) : (lanes S)[i] = S.extractLsb' (64 * i) 64 :=
  Vector.getElem_ofFn hi

@[simp] theorem lanes_flat (A : Lanes) : lanes (flat A) = A :=
  Vector.ext fun i hi => by rw [getElem_lanes _ hi, flat, extractLsb'_joinWords A (by decide) hi]

@[simp] theorem flat_lanes (S : Flat) : flat (lanes S) = S := by
  refine BitVec.eq_of_getLsbD_eq fun k hk => ?_
  rw [getLsbD_flat _ hk, getElem_lanes, BitVec.getLsbD_extractLsb', decide_eq_true (Nat.mod_lt k (by decide)), Bool.true_and,
    Nat.div_add_mod]

/-- Settles O31: lane (x, y) is lane number 5y + x, where the mapper's lemmas by lane number apply. -/
theorem laneMapperRoundTrip : Obligations.LaneMapperRoundTrip := by
  have hindex (x y : Fin 5) : (laneIndex x y).val = 5 * y.val + x.val := Nat.add_comm ..
  refine ⟨fun A x y z hz => ?_, fun S x y => ?_, lanes_flat, flat_lanes⟩
  · have hdiv : (64 * (5 * y.val + x.val) + z) / 64 = (laneIndex x y).val := by rw [hindex]; omega
    have hmod : (64 * (5 * y.val + x.val) + z) % 64 = z := by omega
    rw [getLsbD_flat A (by omega)]
    simp only [hdiv, hmod, laneAt]
  · rw [laneAt, getElem_lanes _ (laneIndex x y).isLt, hindex]

/-- Lane i of the state a block is XORed into (R65). -/
theorem getElem_xorblock (A : Lanes) (P : Block) {i : Nat} (hi : i < 25) :
    (xorblock A P)[i] = if i < 17 then A[i] ^^^ P.extractLsb' (64 * i) 64 else A[i] :=
  Vector.getElem_ofFn hi

/-- XORing a block into lanes 0 to 16 XORs it, extended with 0 bits, into the flat state (R65). -/
theorem flat_xorblock (A : Lanes) (P : Block) : flat (xorblock A P) = flat A ^^^ P.setWidth 1600 := by
  refine BitVec.eq_of_getLsbD_eq fun k hk => ?_
  rw [getLsbD_flat _ hk, getElem_xorblock, BitVec.getLsbD_xor, getLsbD_flat A hk, BitVec.getLsbD_setWidth, decide_eq_true hk,
    Bool.true_and]
  split
  · rw [BitVec.getLsbD_xor, BitVec.getLsbD_extractLsb', decide_eq_true (Nat.mod_lt k (by decide)), Bool.true_and,
      Nat.div_add_mod]
  · rw [BitVec.getLsbD_of_ge P k (by omega), Bool.xor_false]

@[simp] theorem getElem_squeeze (A : Lanes) {k : Nat} (hk : k < 4) : (squeeze A)[k] = A[k] :=
  Vector.getElem_ofFn hk

/-- The digest is the low 256 bits of the flat state (R66). -/
theorem digestValue_squeeze (A : Lanes) : digestValue (squeeze A) = (flat A).extractLsb' 0 256 := by
  refine BitVec.eq_of_getLsbD_eq fun k hk => ?_
  rw [digestValue, getLsbD_joinWords_toList _ hk hk, getElem_squeeze, BitVec.getLsbD_extractLsb', decide_eq_true hk,
    Bool.true_and, Nat.zero_add, getLsbD_flat A (by omega)]

/-- The digest's value is that of its four words in base 2^64 (R66, R95). -/
theorem toNat_digestValue (D : Digest) : (digestValue D).toNat =
    D[0].toNat + 2 ^ 64 * D[1].toNat + 2 ^ 128 * D[2].toNat + 2 ^ 192 * D[3].toNat := by
  have hwords : D.toList = [D[0], D[1], D[2], D[3]] := List.ext_getElem (by simp) fun i _ hi => by
    have hlt : i < 4 := hi
    interval_cases i <;> rfl
  rw [digestValue, toNat_joinWords _ (by simp), hwords]
  simp only [List.map_cons, List.map_nil, Nat.ofDigits_cons, Nat.ofDigits_nil]
  omega

/-- Settles O32, by the mapper's two views of the joined words: word by word and bit by bit. -/
theorem spongeViewsOfTheState : Obligations.SpongeViewsOfTheState :=
  ⟨fun A P i => getElem_xorblock A P i.isLt, flat_xorblock,
    fun B i => extractLsb'_joinWords B (by decide) i.isLt,
    fun A => ⟨digestValue_squeeze A, by simp only [toNat_digestValue, getElem_squeeze]⟩⟩

end Sys2Proof.Machine

namespace Sys2Proof.Machine

/-! ### A lane array lane by lane (10_state.md R14) -/

theorem laneX_laneIndex : ∀ x y : Fin 5, laneX (laneIndex x y) = x := by decide

theorem laneY_laneIndex : ∀ x y : Fin 5, laneY (laneIndex x y) = y := by decide

theorem laneIndex_laneX_laneY : ∀ i : Fin 25, laneIndex (laneX i) (laneY i) = i := by decide

/-- Lane number i of an array given by its coordinates. -/
theorem getElem_lanesOf (f : Fin 5 → Fin 5 → Word) (i : Fin 25) : (lanesOf f)[i.val] = f (laneX i) (laneY i) :=
  Vector.getElem_ofFn i.isLt

@[simp] theorem laneAt_lanesOf (f : Fin 5 → Fin 5 → Word) (x y : Fin 5) : laneAt (lanesOf f) x y = f x y := by
  rw [laneAt, getElem_lanesOf, laneX_laneIndex, laneY_laneIndex]

@[simp] theorem laneAt_zipWith (op : Word → Word → Word) (A B : Lanes) (x y : Fin 5) :
    laneAt (Vector.zipWith op A B) x y = op (laneAt A x y) (laneAt B x y) :=
  Vector.getElem_zipWith (laneIndex x y).isLt

@[simp] theorem laneAt_replicate (w : Word) (x y : Fin 5) : laneAt (Vector.replicate 25 w) x y = w :=
  Vector.getElem_replicate (laneIndex x y).isLt

/-- Two arrays with the same 25 lanes are equal. -/
theorem lanes_ext {A B : Lanes} (h : ∀ x y, laneAt A x y = laneAt B x y) : A = B :=
  Vector.ext fun i hi => by
    have hlane := h (laneX ⟨i, hi⟩) (laneY ⟨i, hi⟩)
    simpa only [laneAt, laneIndex_laneX_laneY] using hlane

/-- There are finitely many lane arrays: each is a flat state. -/
theorem finite_lanes : Finite Lanes :=
  Finite.of_injective (fun A => (flat A).toFin) fun A B h => by
    rw [← lanes_flat A, ← lanes_flat B, BitVec.toFin_inj.1 h]

/-! ### The rotation ROL64 (00_scope.md R12) -/

/-- A left rotation moves bit z − n to bit z, modulo 64. -/
theorem getLsbD_rol64 (v : Word) (n : Nat) {z : Nat} (hz : z < 64) :
    (rol64 v n).getLsbD z = v.getLsbD ((z + 64 - n % 64) % 64) := by
  have hn : n % 64 < 64 := Nat.mod_lt n (by decide)
  rw [rol64, BitVec.getLsbD_or, BitVec.getLsbD_shiftLeft, BitVec.getLsbD_ushiftRight, decide_eq_true hz, Bool.true_and]
  by_cases hlow : z < n % 64
  · rw [decide_eq_true hlow, show (z + 64 - n % 64) % 64 = 64 - n % 64 + z by omega]
    simp
  · rw [decide_eq_false hlow, BitVec.getLsbD_of_ge v (64 - n % 64 + z) (by omega),
      show (z + 64 - n % 64) % 64 = z - n % 64 by omega]
    simp

theorem rol64_xor (v w : Word) (n : Nat) : rol64 (v ^^^ w) n = rol64 v n ^^^ rol64 w n :=
  BitVec.eq_of_getLsbD_eq fun z hz => by simp only [BitVec.getLsbD_xor, getLsbD_rol64 _ n hz]

theorem rol64_rol64 (v : Word) (m n : Nat) : rol64 (rol64 v m) n = rol64 v (m + n) :=
  BitVec.eq_of_getLsbD_eq fun z hz => by
    rw [getLsbD_rol64 _ _ hz, getLsbD_rol64 _ _ (Nat.mod_lt _ (by decide)), getLsbD_rol64 _ _ hz]
    congr 1
    omega

/-- A rotation by a multiple of 64 changes nothing. -/
theorem rol64_of_mod_eq_zero (v : Word) {n : Nat} (h : n % 64 = 0) : rol64 v n = v :=
  BitVec.eq_of_getLsbD_eq fun z hz => by
    rw [getLsbD_rol64 _ _ hz, h, Nat.sub_zero, Nat.add_mod_right, Nat.mod_eq_of_lt hz]

/-- A left rotation is undone by the left rotation that completes it to 64. -/
theorem rol64_injective (n : Nat) : Function.Injective (rol64 · n) :=
  Function.LeftInverse.injective (g := (rol64 · (64 - n % 64))) fun v =>
    (rol64_rol64 v n (64 - n % 64)).trans (rol64_of_mod_eq_zero v (by omega))

@[simp] theorem rol64_zero (n : Nat) : rol64 0 n = 0 :=
  BitVec.eq_of_getLsbD_eq fun _ hz => (getLsbD_rol64 0 n hz).trans (BitVec.getLsbD_zero.trans BitVec.getLsbD_zero.symm)

@[simp] theorem rol64_allOnes (n : Nat) : rol64 (BitVec.allOnes 64) n = BitVec.allOnes 64 :=
  BitVec.eq_of_getLsbD_eq fun z hz => by
    rw [getLsbD_rol64 _ _ hz, BitVec.getLsbD_allOnes, BitVec.getLsbD_allOnes, decide_eq_true hz,
      decide_eq_true (Nat.mod_lt _ (by decide))]

/-! ### The step mappings lane by lane (42_step_mappings.md R68 to R73) -/

@[simp] theorem laneAt_theta (A : Lanes) (x y : Fin 5) : laneAt (theta A) x y = laneAt A x y ^^^ thetaEffect A x :=
  laneAt_lanesOf _ x y

@[simp] theorem laneAt_rho (A : Lanes) (x y : Fin 5) :
    laneAt (rho A) x y = rol64 (laneAt A x y) rhoOffsets[(laneIndex x y).val] :=
  laneAt_lanesOf _ x y

@[simp] theorem laneAt_pi (A : Lanes) (x y : Fin 5) : laneAt (pi A) x y = laneAt A (x + 3 * y) x :=
  laneAt_lanesOf _ x y

@[simp] theorem laneAt_chi (A : Lanes) (x y : Fin 5) :
    laneAt (chi A) x y = laneAt A x y ^^^ (~~~laneAt A (x + 1) y &&& laneAt A (x + 2) y) :=
  laneAt_lanesOf _ x y

theorem zero_eq_laneIndex_iff : ∀ x y : Fin 5, 0 = (laneIndex x y).val ↔ x = 0 ∧ y = 0 := by decide

@[simp] theorem laneAt_iota (A : Lanes) (ir : Nat) (x y : Fin 5) :
    laneAt (iota A ir) x y = if x = 0 ∧ y = 0 then laneAt A 0 0 ^^^ roundConstant ir else laneAt A x y := by
  rw [laneAt, iota, Vector.getElem_set, if_congr (zero_eq_laneIndex_iff x y) rfl rfl]
  rfl

theorem getLsbD_columnParity (A : Lanes) (x : Fin 5) (z : Nat) : (columnParity A x).getLsbD z =
    ((laneAt A x 0).getLsbD z ^^ (laneAt A x 1).getLsbD z ^^ (laneAt A x 2).getLsbD z ^^ (laneAt A x 3).getLsbD z ^^
      (laneAt A x 4).getLsbD z) := by
  simp only [columnParity, BitVec.getLsbD_xor]

/-- R69's table: row x, entry y. -/
def rhoTable : List (List Nat) :=
  [[0, 36, 3, 41, 18], [1, 44, 10, 45, 2], [62, 6, 43, 15, 61], [28, 55, 25, 21, 56], [27, 20, 39, 8, 14]]

/-- The traversal of R69 fills in its table, whose entries are below 64. -/
theorem rhoOffsets_mod : ∀ x y : Fin 5,
    rhoOffsets[(laneIndex x y).val] % 64 = (rhoTable.getD x.val []).getD y.val 0 := by
  decide

/-- R71's table: the lane that moves to lane i. -/
def piSource : List Nat := [0, 6, 12, 18, 24, 3, 9, 10, 16, 22, 1, 7, 13, 19, 20, 4, 5, 11, 17, 23, 2, 8, 14, 15, 21]

/-- The formula of R71 reads the lanes of its table. -/
theorem piSource_getD : ∀ i : Fin 25, piSource.getD i.val 0 = (laneIndex (laneX i + 3 * laneY i) (laneX i)).val := by
  decide

theorem getElem?_pi (A : Lanes) (i : Fin 25) : (pi A)[i.val]? = A[piSource.getD i.val 0]? := by
  rw [piSource_getD, Vector.getElem?_eq_getElem i.isLt, Vector.getElem?_eq_getElem (Fin.isLt _)]
  exact congrArg some (getElem_lanesOf _ i)

/-! ### The step commands' completions (42_step_mappings.md R75 to R79) -/

/-- A busy engine completes a command that passes its checks, with all the writes (R118, R119). -/
theorem exec_of_busy {i : Instr} {s : State} (hbusy : s.busy = true) (hwf : i.WellFormed)
    (hphase : needsAbsorbing i = true → s.dvalid = false) : exec i s = .next (complete (writesOf i s)) := by
  rw [exec_eq, runCommand_completed _ ((admission_none_iff i s).2 ⟨hwf, hphase⟩) hbusy]

/-- A command that only replaces the lane array completes with the new array, its end of command and nothing else. -/
theorem laneCommand_completes {i : Instr} {f : Lanes → Lanes} {s : State} (hbusy : s.busy = true)
    (hwrites : writesOf i s = { s with a := f s.a }) (hwf : i.WellFormed) (hfree : needsAbsorbing i = false) :
    ∃ t, exec i s = .next t ∧
      t = { s with a := t.a, busy := false, done := true, pend := none, roundCtr := none } ∧ t.a = f s.a := by
  rw [exec_of_busy hbusy hwf (by simp [hfree]), hwrites]
  exact ⟨_, rfl, rfl, rfl⟩

/-- Settles O18: the lane takes the two neighbouring parities, the second one rotated left by 1. -/
theorem thetaCompletes : Obligations.ThetaCompletes := by
  intro s hbusy
  obtain ⟨t, hexec, hframe, ha⟩ := laneCommand_completes (i := .theta) hbusy rfl rfl rfl
  refine ⟨t, hexec, hframe, fun x y z hz => ?_⟩
  rw [ha, laneAt_theta, thetaEffect, BitVec.getLsbD_xor, BitVec.getLsbD_xor, getLsbD_rol64 _ _ hz, ← Bool.xor_assoc]
  simp only [getLsbD_columnParity]
  rfl

/-- Settles O19: a left rotation by the table's offset, bit by bit. -/
theorem rhoCompletes : Obligations.RhoCompletes := by
  intro s hbusy
  obtain ⟨t, hexec, hframe, ha⟩ := laneCommand_completes (i := .rho) hbusy rfl rfl rfl
  refine ⟨t, hexec, hframe, fun x y z hz => ?_⟩
  rw [ha, laneAt_rho, getLsbD_rol64 _ _ hz, rhoOffsets_mod]
  rfl

/-- Settles O20: the moves by lane number and by coordinates. -/
theorem piCompletes : Obligations.PiCompletes := by
  intro s hbusy
  obtain ⟨t, hexec, hframe, ha⟩ := laneCommand_completes (i := .pi) hbusy rfl rfl rfl
  exact ⟨t, hexec, hframe, ha ▸ getElem?_pi s.a, ha ▸ laneAt_pi s.a⟩

/-- Settles O21: the lane formula, bit by bit. -/
theorem chiCompletes : Obligations.ChiCompletes := by
  intro s hbusy
  obtain ⟨t, hexec, hframe, ha⟩ := laneCommand_completes (i := .chi) hbusy rfl rfl rfl
  refine ⟨t, hexec, hframe, fun x y z hz => ?_⟩
  rw [ha, laneAt_chi, BitVec.getLsbD_xor, BitVec.getLsbD_and, BitVec.getLsbD_not, decide_eq_true hz, Bool.true_and]

/-- Settles O22: an index up to 23 passes the range check, and the lanes are those of ι. -/
theorem iotaCompletes : Obligations.IotaCompletes :=
  fun s _ hbusy hr => ⟨_, exec_of_busy hbusy (decide_eq_true hr) nofun, rfl, laneAt_iota s.a _⟩

/-! ### Linearity and fixed points (42_step_mappings.md R74) -/

theorem columnParity_xor (A B : Lanes) (x : Fin 5) :
    columnParity (Vector.zipWith (· ^^^ ·) A B) x = columnParity A x ^^^ columnParity B x := by
  simp only [columnParity, laneAt_zipWith]
  ac_rfl

theorem thetaEffect_xor (A B : Lanes) (x : Fin 5) :
    thetaEffect (Vector.zipWith (· ^^^ ·) A B) x = thetaEffect A x ^^^ thetaEffect B x := by
  simp only [thetaEffect, columnParity_xor, rol64_xor]
  ac_rfl

theorem theta_xor (A B : Lanes) : theta (Vector.zipWith (· ^^^ ·) A B) = Vector.zipWith (· ^^^ ·) (theta A) (theta B) :=
  lanes_ext fun x y => by
    simp only [laneAt_theta, laneAt_zipWith, thetaEffect_xor]
    ac_rfl

theorem rho_xor (A B : Lanes) : rho (Vector.zipWith (· ^^^ ·) A B) = Vector.zipWith (· ^^^ ·) (rho A) (rho B) :=
  lanes_ext fun x y => by simp only [laneAt_rho, laneAt_zipWith, rol64_xor]

theorem pi_xor (A B : Lanes) : pi (Vector.zipWith (· ^^^ ·) A B) = Vector.zipWith (· ^^^ ·) (pi A) (pi B) :=
  lanes_ext fun x y => by simp only [laneAt_pi, laneAt_zipWith]

/-- ι is affine: in an XOR of three its constant is left over once. -/
theorem iota_xor_xor (ir : Nat) (A B C : Lanes) :
    iota (Vector.zipWith (· ^^^ ·) A (Vector.zipWith (· ^^^ ·) B C)) ir =
      Vector.zipWith (· ^^^ ·) (iota A ir) (Vector.zipWith (· ^^^ ·) (iota B ir) (iota C ir)) :=
  lanes_ext fun x y => by
    have hcancel (a b c k : Word) : (a ^^^ (b ^^^ c)) ^^^ k = (a ^^^ k) ^^^ ((b ^^^ k) ^^^ (c ^^^ k)) := by grind
    simp only [laneAt_iota, laneAt_zipWith]
    split
    · exact hcancel _ _ _ _
    · rfl

/-- The parity of five equal lanes is the lane. -/
theorem columnParity_replicate (w : Word) (x : Fin 5) : columnParity (Vector.replicate 25 w) x = w := by
  simp [columnParity]

/-- θ fixes an array of equal lanes that rotation keeps: the two parities cancel. -/
theorem theta_replicate {w : Word} (hw : ∀ n, rol64 w n = w) : theta (Vector.replicate 25 w) = Vector.replicate 25 w :=
  lanes_ext fun x y => by
    simp only [laneAt_theta, thetaEffect, columnParity_replicate, hw, BitVec.xor_self, BitVec.xor_zero]

theorem rho_replicate {w : Word} (hw : ∀ n, rol64 w n = w) : rho (Vector.replicate 25 w) = Vector.replicate 25 w :=
  lanes_ext fun x y => by simp only [laneAt_rho, laneAt_replicate, hw]

theorem pi_replicate (w : Word) : pi (Vector.replicate 25 w) = Vector.replicate 25 w :=
  lanes_ext fun x y => by simp only [laneAt_pi, laneAt_replicate]

/-- χ fixes every array of equal lanes: no bit is set both in a lane and in its complement. -/
theorem chi_replicate (w : Word) : chi (Vector.replicate 25 w) = Vector.replicate 25 w :=
  lanes_ext fun x y => by simp [laneAt_chi]

/-- θ, ρ, π and χ fix an array of equal lanes that rotation keeps. -/
theorem stepMapping_replicate {w : Word} (hw : ∀ n, rol64 w n = w) :
    ∀ f ∈ [theta, rho, pi, chi], f (Vector.replicate 25 w) = Vector.replicate 25 w :=
  List.forall_mem_cons.2 ⟨theta_replicate hw, List.forall_mem_cons.2 ⟨rho_replicate hw,
    List.forall_mem_cons.2 ⟨pi_replicate w, List.forall_mem_singleton.2 (chi_replicate w)⟩⟩⟩

/-- Settles O27: the lemmas per mapping, where rotation keeps both the zero and the all-ones word. -/
theorem stepMappingsLinearAndFixedPoints : Obligations.StepMappingsLinearAndFixedPoints :=
  ⟨List.forall_mem_cons.2 ⟨theta_xor, List.forall_mem_cons.2 ⟨rho_xor, List.forall_mem_singleton.2 pi_xor⟩⟩,
    iota_xor_xor, fun f hf => ⟨stepMapping_replicate rol64_zero f hf, stepMapping_replicate rol64_allOnes f hf⟩⟩

/-! ### Each step mapping is a bijection (42_step_mappings.md R74, conflict C1)

θ is injective because its kernel is trivial. In an array that θ sends to 0 the column parities C satisfy
C[x] = C[x−1] ⊕ ROL64(C[x+1], 1). Substituting such an equation into itself doubles its two shifts, as squaring does over GF(2), so
after six doublings the rotation is by 64 and gone, and a seventh gives a second equation without rotation. -/

/-- Each word is the XOR of the word k columns before it and of the word k columns behind it, rotated by n. -/
def ShiftRelation (C : Fin 5 → Word) (k : Fin 5) (n : Nat) : Prop := ∀ x, C x = C (x - k) ^^^ rol64 (C (x + k)) n

/-- The relation put into its own two terms: the two copies of the middle word cancel. -/
theorem ShiftRelation.double {C : Fin 5 → Word} {k : Fin 5} {n : Nat} (h : ShiftRelation C k n) :
    ShiftRelation C (k + k) (n + n) := fun x =>
  calc C x = C (x - k) ^^^ rol64 (C (x + k)) n := h x
    _ = (C (x - (k + k)) ^^^ rol64 (C x) n) ^^^ (rol64 (C x) n ^^^ rol64 (C (x + (k + k))) (n + n)) := by
      rw [h (x - k), h (x + k), rol64_xor, rol64_rol64, sub_sub, sub_add_cancel, add_sub_cancel_right, add_assoc]
    _ = C (x - (k + k)) ^^^ rol64 (C (x + (k + k))) (n + n) := by
      rw [BitVec.xor_assoc, ← BitVec.xor_assoc (rol64 (C x) n), BitVec.xor_self, BitVec.zero_xor]

/-- θ's relation between the column parities has only the zero solution. -/
theorem ShiftRelation.eq_zero {C : Fin 5 → Word} (h : ShiftRelation C 1 1) (x : Fin 5) : C x = 0 := by
  have h64 : ShiftRelation C 4 64 := h.double.double.double.double.double.double
  have h128 : ShiftRelation C 3 128 := h64.double
  have hnext : C x = C (x + 1) ^^^ C (x + 4) := by
    rw [h64 x, rol64_of_mod_eq_zero _ rfl, show x - 4 = x + 1 by omega]
  have hskip (x : Fin 5) : C x = C (x + 2) ^^^ C (x + 3) := by
    rw [h128 x, rol64_of_mod_eq_zero _ rfl, show x - 3 = x + 2 by omega]
  have hskip1 : C (x + 1) = C (x + 3) ^^^ C (x + 4) := by
    rw [hskip (x + 1), add_assoc, add_assoc]
    rfl
  have hskip4 : C (x + 4) = C (x + 1) ^^^ C (x + 2) := by
    rw [hskip (x + 4), add_assoc, add_assoc]
    rfl
  calc C x = C (x + 1) ^^^ C (x + 4) := hnext
    _ = (C (x + 3) ^^^ C (x + 4)) ^^^ (C (x + 1) ^^^ C (x + 2)) := congrArg₂ _ hskip1 hskip4
    _ = (C (x + 1) ^^^ C (x + 4)) ^^^ (C (x + 2) ^^^ C (x + 3)) := by ac_rfl
    _ = 0 := by rw [← hnext, ← hskip, BitVec.xor_self]; rfl

/-- An array that θ sends to zero has no odd column, so θ has not changed it. -/
theorem eq_zero_of_theta_eq_zero {E : Lanes} (h : theta E = Vector.replicate 25 0) : E = Vector.replicate 25 0 := by
  have hlane (x y : Fin 5) : laneAt E x y = thetaEffect E x := by
    have hxor := laneAt_theta E x y
    rw [h, laneAt_replicate] at hxor
    exact BitVec.xor_eq_zero_iff.1 hxor.symm
  have hparity (x : Fin 5) : columnParity E x = thetaEffect E x := by simp [columnParity, hlane]
  have hzero : ∀ x, columnParity E x = 0 := ShiftRelation.eq_zero hparity
  exact lanes_ext fun x y => by rw [hlane, ← hparity, hzero, laneAt_replicate]

theorem zipWith_xor_eq_zero_iff {A B : Lanes} :
    Vector.zipWith (· ^^^ ·) A B = Vector.replicate 25 0 ↔ A = B := by
  refine ⟨fun h => lanes_ext fun x y => BitVec.xor_eq_zero_iff.1 ?_, fun h => lanes_ext fun x y => ?_⟩
  · rw [← laneAt_zipWith (· ^^^ ·) A B, h, laneAt_replicate]
    rfl
  · rw [h, laneAt_zipWith, laneAt_replicate]
    exact BitVec.xor_self

/-- By linearity, two arrays with one image differ by an array of the kernel. -/
theorem theta_injective : Function.Injective theta := fun A B h =>
  zipWith_xor_eq_zero_iff.1 <| eq_zero_of_theta_eq_zero <| by rw [theta_xor, zipWith_xor_eq_zero_iff, h]

theorem rho_injective : Function.Injective rho := fun A B h =>
  lanes_ext fun x y => rol64_injective _ (by simpa only [laneAt_rho] using congrArg (laneAt · x y) h)

/-- Every lane (x, y) is read by π, at the place whose coordinates solve R71's formula for it. -/
theorem laneAt_eq_laneAt_pi (A : Lanes) (x y : Fin 5) : laneAt A x y = laneAt (pi A) y (2 * (x - y)) := by
  have hsolve : ∀ x y : Fin 5, y + 3 * (2 * (x - y)) = x := by decide
  rw [laneAt_pi, hsolve]

theorem pi_injective : Function.Injective pi := fun A B h =>
  lanes_ext fun x y => by rw [laneAt_eq_laneAt_pi, h, ← laneAt_eq_laneAt_pi]

/-- The inverse of χ, a formula over the lanes of one row as χ is. -/
def chiInverse (A : Lanes) : Lanes := lanesOf fun x y =>
  laneAt A x y ^^^ (~~~laneAt A (x + 1) y &&& (laneAt A (x + 2) y ^^^ (~~~laneAt A (x + 3) y &&& laneAt A (x + 4) y)))

/-- The inverse formula on the five words of a row gives back the first. -/
theorem chi_row_inverse (a b c d e : Word) :
    (a ^^^ (~~~b &&& c)) ^^^ (~~~(b ^^^ (~~~c &&& d)) &&& ((c ^^^ (~~~d &&& e)) ^^^
      (~~~(d ^^^ (~~~e &&& a)) &&& (e ^^^ (~~~a &&& b))))) = a := by
  have hbit : ∀ a b c d e : Bool, ((a ^^ (!b && c)) ^^ (!(b ^^ (!c && d)) && ((c ^^ (!d && e)) ^^
      (!(d ^^ (!e && a)) && (e ^^ (!a && b)))))) = a := by decide
  ext z
  simp only [BitVec.getElem_xor, BitVec.getElem_and, BitVec.getElem_not, hbit]

theorem chiInverse_chi : Function.LeftInverse chiInverse chi := fun A =>
  lanes_ext fun x y => by
    simp only [chiInverse, laneAt_lanesOf, laneAt_chi, add_assoc, Fin.reduceAdd, Fin.isValue, add_zero]
    exact chi_row_inverse _ (laneAt A (x + 1) y) (laneAt A (x + 2) y) (laneAt A (x + 3) y) (laneAt A (x + 4) y)

/-- XORing the same constant twice gives the lane back. -/
theorem iota_involutive (ir : Nat) : Function.Involutive (iota · ir) := fun A =>
  lanes_ext fun x y => by
    simp only [laneAt_iota, and_self, if_true]
    split
    · next h =>
      obtain ⟨rfl, rfl⟩ := h
      rw [BitVec.xor_assoc, BitVec.xor_self, BitVec.xor_zero]
    · rfl

/-- Settles O28: an injection of the finite set of lane arrays into itself is a bijection. -/
theorem stepMappingsBijective : Obligations.StepMappingsBijective :=
  have := finite_lanes
  ⟨theta_injective.bijective_of_finite, rho_injective.bijective_of_finite, pi_injective.bijective_of_finite,
    chiInverse_chi.injective.bijective_of_finite, fun ir => (iota_involutive ir).bijective⟩

end Sys2Proof.Machine

namespace Sys2Proof.Machine

/-! ### The LFSR and its period (43_round_constants.md R80, R81) -/

theorem lfsrRun_eq_iterate (R : BitVec 8) (n : Nat) : lfsrRun R n = lfsrStep^[n] R := by
  induction n with
  | zero => rfl
  | succ n ih => rw [lfsrRun, ih, Function.iterate_succ_apply']

theorem isPeriodicPt_lfsrStep_iff {R : BitVec 8} {n : Nat} : Function.IsPeriodicPt lfsrStep n R ↔ lfsrRun R n = R := by
  rw [lfsrRun_eq_iterate, Function.IsPeriodicPt, Function.IsFixedPt]

theorem lfsrRun_add (R : BitVec 8) (m n : Nat) : lfsrRun R (m + n) = lfsrRun (lfsrRun R m) n := by
  simp only [lfsrRun_eq_iterate, Nat.add_comm m n, Function.iterate_add_apply]

/-- The mask of R80 drops nothing: the register is 8 bits wide. -/
theorem lfsrStep_eq_masked (R : BitVec 8) :
    lfsrStep R = ((R <<< 1) &&& 0xFF) ^^^ (if R.getLsbD 7 then 0x71 else 0) := by
  rw [show (0xFF : BitVec 8) = BitVec.allOnes 8 from rfl, BitVec.and_allOnes, lfsrStep]

/-- One step shifts by a position and feeds bit 7 back at the taps 0, 4, 5 and 6. -/
theorem getLsbD_lfsrStep (R : BitVec 8) (k : Fin 8) : (lfsrStep R).getLsbD k.val =
    ((decide (k.val ≠ 0) && R.getLsbD (k.val - 1)) ^^ (decide (k.val ∈ [0, 4, 5, 6]) && R.getLsbD 7)) := by
  have hshift : (R <<< 1).getLsbD k.val = (decide (k.val ≠ 0) && R.getLsbD (k.val - 1)) := by
    rw [BitVec.getLsbD_shiftLeft, decide_eq_true k.isLt, Bool.true_and]
    simp
  have htaps : ∀ k : Fin 8, (0x71 : BitVec 8).getLsbD k.val = decide (k.val ∈ [0, 4, 5, 6]) := by decide
  rw [lfsrStep, BitVec.getLsbD_xor, hshift]
  cases R.getLsbD 7
  · rw [Bool.and_false]
    exact congrArg _ BitVec.getLsbD_zero
  · rw [if_pos rfl, htaps, Bool.and_true]

/-- 255 steps lead from 0x01 back to it. -/
theorem isPeriodicPt_lfsrStep : Function.IsPeriodicPt lfsrStep 255 0x01 :=
  isPeriodicPt_lfsrStep_iff.2 (by decide +kernel)

/-- The period is 255: a smaller one would divide 85, 51 or 15, and none of these leads back to 0x01. -/
theorem minimalPeriod_lfsrStep : Function.minimalPeriod lfsrStep 0x01 = 255 := by
  have hdivisor : ∀ d ∈ Nat.divisors 255, d ≠ 255 → ∃ n ∈ [85, 51, 15], d ∣ n := by decide
  have hmoved : ∀ n ∈ [85, 51, 15], lfsrRun 0x01 n ≠ 0x01 := by decide +kernel
  by_contra hsmaller
  obtain ⟨n, hn, hdvd⟩ :=
    hdivisor _ (Nat.mem_divisors.2 ⟨isPeriodicPt_lfsrStep.minimalPeriod_dvd, by decide⟩) hsmaller
  exact hmoved n hn (isPeriodicPt_lfsrStep_iff.1 (Function.isPeriodicPt_iff_minimalPeriod_dvd.2 hdvd))

theorem lfsrRun_mod (t : Nat) : lfsrRun 0x01 (t % 255) = lfsrRun 0x01 t := by
  rw [lfsrRun_eq_iterate, lfsrRun_eq_iterate, isPeriodicPt_lfsrStep.iterate_mod_apply]

theorem lfsrRun_ne_start {p : Nat} (hpos : 0 < p) (hlt : p < 255) : lfsrRun 0x01 p ≠ 0x01 := fun h => by
  have hle := (isPeriodicPt_lfsrStep_iff.2 h).minimalPeriod_le hpos
  rw [minimalPeriod_lfsrStep] at hle
  omega

/-- R81's case for multiples of 255 agrees with its general case, as bit 0 of 0x01 is 1. -/
theorem rc_eq_of_mod (t : Nat) : rc t = (lfsrRun 0x01 (t % 255)).getLsbD 0 := by
  rw [rc]
  split
  · next h => rw [h]; rfl
  · rfl

theorem rc_eq (t : Nat) : rc t = (lfsrRun 0x01 t).getLsbD 0 := by rw [rc_eq_of_mod, lfsrRun_mod]

/-- Settles O24: the step bit by bit, the minimal period by the divisors of 255, and rc by the period. -/
theorem lfsrStepAndOutput : Obligations.LfsrStepAndOutput :=
  ⟨lfsrStep_eq_masked, getLsbD_lfsrStep, by decide,
    ⟨isPeriodicPt_lfsrStep_iff.1 isPeriodicPt_lfsrStep, fun p hpos => lfsrRun_ne_start hpos p.isLt⟩,
    fun _ h => if_pos h, rc_eq_of_mod, rc_eq⟩

/-! ### The round constants (43_round_constants.md R82 to R84) -/

/-- The bit f at position m, as R82 and R83 write it. -/
def bitAt (f : Bool) (m : Nat) : Word := if f then BitVec.ofNat 64 (2 ^ m) else 0

theorem getLsbD_bitAt (f : Bool) (m : Nat) {z : Nat} (hz : z < 64) : (bitAt f m).getLsbD z = (decide (z = m) && f) := by
  cases f
  · rw [Bool.and_false]
    exact BitVec.getLsbD_zero
  · rw [bitAt, if_pos rfl, BitVec.getLsbD_ofNat, decide_eq_true hz, Bool.true_and, Nat.testBit_two_pow, Bool.and_true]
    exact decide_eq_decide.2 eq_comm

/-- At a position that holds 0, a bit adds without a carry. -/
theorem add_bitAt_eq_or {v : Word} {m : Nat} (f : Bool) (h : v.getLsbD m = false) : v + bitAt f m = v ||| bitAt f m := by
  refine BitVec.add_eq_or_of_and_eq_zero _ _ (BitVec.eq_of_getLsbD_eq fun z hz => ?_)
  rw [BitVec.getLsbD_and, getLsbD_bitAt f m hz, BitVec.getLsbD_zero]
  by_cases hzm : z = m
  · rw [hzm, h, Bool.false_and]
  · rw [decide_eq_false hzm, Bool.false_and, Bool.and_false]

theorem add_bitAt_eq_xor {v : Word} {m : Nat} (f : Bool) (h : v.getLsbD m = false) : v + bitAt f m = v ^^^ bitAt f m := by
  rw [add_bitAt_eq_or f h]
  refine BitVec.eq_of_getLsbD_eq fun z hz => ?_
  rw [BitVec.getLsbD_or, BitVec.getLsbD_xor, getLsbD_bitAt f m hz]
  by_cases hzm : z = m
  · rw [hzm, h, Bool.false_or, Bool.false_xor]
  · rw [decide_eq_false hzm, Bool.false_and, Bool.or_false, Bool.xor_false]

/-- The sum of R82 over its first n terms, for any bits c. -/
def spreadBits (c : Nat → Bool) (n : Nat) : Word :=
  (List.range n).foldl (fun k j => k + bitAt (c j) (2 ^ j - 1)) 0

theorem roundConstant_eq_spreadBits (ir : Nat) : roundConstant ir = spreadBits (fun j => rc (j + 7 * ir)) 7 := rfl

theorem spreadBits_succ (c : Nat → Bool) (n : Nat) :
    spreadBits c (n + 1) = spreadBits c n + bitAt (c n) (2 ^ n - 1) := by
  rw [spreadBits, List.range_succ, List.foldl_append]
  rfl

/-- A word whose bits are those of the sum over j < n holds 0 at the next position 2^n − 1: the positions are distinct. -/
theorem getLsbD_next_position {v : Word} {c : Nat → Bool} {n : Nat}
    (h : ∀ z < 64, v.getLsbD z = (List.range n).any fun j => decide (z = 2 ^ j - 1) && c j) :
    v.getLsbD (2 ^ n - 1) = false := by
  by_cases hlt : 2 ^ n - 1 < 64
  · refine (h _ hlt).trans (List.any_eq_false.2 fun j hj => ?_)
    have hpow : 2 ^ j < 2 ^ n := Nat.pow_lt_pow_right (by decide) (List.mem_range.1 hj)
    have hpos : 0 < 2 ^ j := Nat.two_pow_pos j
    rw [decide_eq_false (by omega), Bool.false_and]
    exact Bool.false_ne_true
  · exact BitVec.getLsbD_of_ge _ _ (Nat.le_of_not_lt hlt)

/-- The sum has bit c j at position 2^j − 1 and 0 elsewhere: each term falls on a position that holds 0. -/
theorem getLsbD_spreadBits (c : Nat → Bool) (n : Nat) : ∀ z < 64,
    (spreadBits c n).getLsbD z = (List.range n).any fun j => decide (z = 2 ^ j - 1) && c j := by
  induction n with
  | zero => exact fun _ _ => BitVec.getLsbD_zero
  | succ n ih =>
    intro z hz
    rw [spreadBits_succ, add_bitAt_eq_or _ (getLsbD_next_position ih), BitVec.getLsbD_or, getLsbD_bitAt _ _ hz, ih z hz,
      List.range_succ, List.any_append, List.any_cons, List.any_nil, Bool.or_false]

/-- The loop of R83 over n positions: the sum over the register's output bits, and the register n steps on. -/
theorem generatorLoop_eq (R : BitVec 8) (n : Nat) :
    (List.range n).foldl (fun g j => (g.1 ^^^ bitAt (g.2.getLsbD 0) (2 ^ j - 1), lfsrStep g.2)) ((0 : Word), R) =
      (spreadBits (fun j => (lfsrRun R j).getLsbD 0) n, lfsrRun R n) := by
  induction n with
  | zero => rfl
  | succ n ih =>
    rw [List.range_succ, List.foldl_append, ih, spreadBits_succ,
      add_bitAt_eq_xor _ (getLsbD_next_position (getLsbD_spreadBits _ n))]
    rfl

theorem generateConstant_eq (R : BitVec 8) :
    generateConstant R = (spreadBits (fun j => (lfsrRun R j).getLsbD 0) 7, lfsrRun R 7) :=
  generatorLoop_eq R 7

/-- Seven steps a round: round ir begins 7 ir steps after 0x01. -/
theorem generatorLfsr_eq (ir : Nat) : generatorLfsr ir = lfsrRun 0x01 (7 * ir) := by
  induction ir with
  | zero => rfl
  | succ ir ih => rw [generatorLfsr, generateConstant_eq, ih, Nat.mul_succ, lfsrRun_add]

/-- Settles O26: step j of round ir is step j + 7 ir of the one run from 0x01, whose output bit is rc (j + 7 ir). -/
theorem generatorEqualsTable : Obligations.GeneratorEqualsTable := fun ir => by
  rw [generateConstant_eq, generatorLfsr_eq, roundConstant_eq_spreadBits]
  simp only [← lfsrRun_add, rc_eq, Nat.add_comm (7 * ir)]

/-- Settles O23: an index up to 23 passes the range check, and RCGEN's writes are the constant and a free LFSR. -/
theorem rcgenCompletes : Obligations.RcgenCompletes :=
  fun _ _ hbusy hr => ⟨_, _, exec_of_busy hbusy (decide_eq_true hr) nofun⟩

/-- Settles O25: the table by evaluation, the bits by the sum's positions. -/
theorem roundConstantTable : Obligations.RoundConstantTable :=
  ⟨by decide +kernel, fun _ z => getLsbD_spreadBits _ 7 z z.isLt⟩

end Sys2Proof.Machine

namespace Sys2Proof.Machine

/-! ### Keccak-f is a bijection (44_permutation.md R85, R86) -/

theorem rnd_bijective (ir : Nat) : Function.Bijective (rnd · ir) := by
  obtain ⟨htheta, hrho, hpi, hchi, hiota⟩ := stepMappingsBijective
  exact (hiota ir).comp (hchi.comp (hpi.comp (hrho.comp htheta)))

/-- A fold whose every step is a bijection of the accumulator is one. -/
theorem foldl_bijective {α β : Type} {f : α → β → α} (hf : ∀ b, Function.Bijective (f · b)) (bs : List β) :
    Function.Bijective fun a => bs.foldl f a := by
  induction bs with
  | nil => exact Function.bijective_id
  | cons b bs ih => exact ih.comp (hf b)

theorem keccakF_eq_foldl (A : Lanes) : keccakF A = (List.range 24).foldl rnd A := by
  rw [keccakF, Config.rounds]

/-- The rounds written out by their five step mappings. -/
theorem foldl_stepMappings_eq_keccakF (A : Lanes) :
    (List.range 24).foldl (fun A ir => iota (chi (pi (rho (theta A)))) ir) A = keccakF A :=
  (keccakF_eq_foldl A).symm

theorem keccakF_bijective : Function.Bijective keccakF := by
  rw [funext keccakF_eq_foldl]
  exact foldl_bijective rnd_bijective _

theorem flat_bijective : Function.Bijective flat :=
  Function.bijective_iff_has_inverse.2 ⟨lanes, lanes_flat, flat_lanes⟩

theorem lanes_bijective : Function.Bijective lanes :=
  Function.bijective_iff_has_inverse.2 ⟨flat, flat_lanes, lanes_flat⟩

/-- Settles O29: a fold of bijective rounds, between the two directions of the lane mapper. -/
theorem keccakFBijective : Obligations.KeccakFBijective :=
  ⟨keccakF_bijective, flat_bijective.comp (keccakF_bijective.comp lanes_bijective)⟩

/-! ### Commands that act on the lane array (44_permutation.md R88, R89) -/

/-- The command takes no phase check and writes f of the lane array, beside the LFSR and the model's draw counter. -/
structure ActsOnLanes (i : Instr) (f : Lanes → Lanes) : Prop where
  wellFormed : i.WellFormed
  phaseFree : needsAbsorbing i = false
  writes : ∀ s, ∃ l n, writesOf i s = { s with a := f s.a, lfsr := l, draws := n }

/-- The writes of a command that replaces the lane array and uses a round constant, in one record. -/
theorem stirLfsr_replaced_lanes (s : State) (A : Lanes) :
    stirLfsr { s with a := A } = { s with a := A, lfsr := Config.lfsrLeft s.draws, draws := s.draws + 1 } := rfl

theorem actsOnLanes_permute : ActsOnLanes .permute keccakF :=
  ⟨rfl, rfl, fun s => ⟨_, _, stirLfsr_replaced_lanes s _⟩⟩

theorem actsOnLanes_round {r : BitVec 5} (hr : r.toNat ≤ 23) : ActsOnLanes (.round r) (rnd · r.toNat) :=
  ⟨decide_eq_true hr, rfl, fun s => ⟨_, _, stirLfsr_replaced_lanes s _⟩⟩

theorem actsOnLanes_theta : ActsOnLanes .theta theta := ⟨rfl, rfl, fun _ => ⟨_, _, rfl⟩⟩

theorem actsOnLanes_rho : ActsOnLanes .rho rho := ⟨rfl, rfl, fun _ => ⟨_, _, rfl⟩⟩

theorem actsOnLanes_pi : ActsOnLanes .pi pi := ⟨rfl, rfl, fun _ => ⟨_, _, rfl⟩⟩

theorem actsOnLanes_chi : ActsOnLanes .chi chi := ⟨rfl, rfl, fun _ => ⟨_, _, rfl⟩⟩

theorem actsOnLanes_iota {r : BitVec 5} (hr : r.toNat ≤ 23) : ActsOnLanes (.iota r) (iota · r.toNat) :=
  ⟨decide_eq_true hr, rfl, fun s => ⟨_, _, stirLfsr_replaced_lanes s _⟩⟩

/-- A busy engine completes such a command with its function of the lane array. -/
theorem ActsOnLanes.completes {i : Instr} {f : Lanes → Lanes} (h : ActsOnLanes i f) {s : State} (hbusy : s.busy = true) :
    ∃ l n, exec i s = .next
      { s with a := f s.a, lfsr := l, draws := n, busy := false, done := true, pend := none, roundCtr := none } := by
  obtain ⟨l, n, hwrites⟩ := h.writes s
  rw [exec_of_busy hbusy h.wellFormed (by simp [h.phaseFree]), hwrites]
  exact ⟨l, n, rfl⟩

/-- Settles O16: the statement's fold over the 24 rounds is Keccak-f. -/
theorem permuteCompletes : Obligations.PermuteCompletes := by
  intro s hbusy
  rw [foldl_stepMappings_eq_keccakF]
  exact actsOnLanes_permute.completes hbusy

/-- Settles O17: an index up to 23 passes the range check, and the statement's composition is the round. -/
theorem roundCompletes : Obligations.RoundCompletes :=
  fun _ _ hbusy hr => (actsOnLanes_round hr).completes hbusy

/-! ### Such commands performed in sequence (44_permutation.md R87) -/

/-- An idle engine performs a command that passes its checks: acceptance, then completion with all the writes (R118). -/
theorem perform_of_wellFormed {i : Instr} {s : State} (hbusy : s.busy = false) (hwf : i.WellFormed)
    (hphase : needsAbsorbing i = true → s.dvalid = false) : perform i s = some (complete (writesOf i (accept i s))) := by
  have hsubmit : submit (encode i) s = .next (accept i s) := by
    simp [submit, hbusy, decodeOfEncode i, exec_of_wellFormed hbusy hwf hphase]
  have hengine : engineStep (accept i s) = .next (complete (writesOf i (accept i s))) := by
    rw [← exec_of_busy (s := accept i s) rfl hwf hphase]
    simp only [engineStep, accept, decodeOfEncode i]
  simp only [perform, hsubmit, hengine]
  exact if_pos rfl

/-- t is s after completed commands that replaced the lane array by A: the fields left free are those no access observes. -/
def LanesReplaced (s : State) (A : Lanes) (t : State) : Prop :=
  ∃ l n d, t = { complete { s with a := A } with lfsr := l, draws := n, delay := d }

namespace LanesReplaced

variable {s t u : State} {A B : Lanes}

theorem lanes_eq (h : LanesReplaced s A t) : t.a = A := by
  obtain ⟨_, _, _, rfl⟩ := h
  rfl

theorem idle (h : LanesReplaced s A t) : t.busy = false := by
  obtain ⟨_, _, _, rfl⟩ := h
  rfl

theorem trans (h : LanesReplaced s A t) (h' : LanesReplaced t B u) : LanesReplaced s B u := by
  obtain ⟨_, _, _, rfl⟩ := h
  obtain ⟨l, n, d, rfl⟩ := h'
  exact ⟨l, n, d, rfl⟩

/-- The observable registers do not depend on the free fields. -/
theorem observe_eq (ht : LanesReplaced s A t) (hu : LanesReplaced s A u) : t.observe = u.observe := by
  obtain ⟨_, _, _, rfl⟩ := ht
  obtain ⟨_, _, _, rfl⟩ := hu
  rfl

end LanesReplaced

theorem perform_of_actsOnLanes {i : Instr} {f : Lanes → Lanes} (h : ActsOnLanes i f) {s : State} (hbusy : s.busy = false) :
    ∃ t, perform i s = some t ∧ LanesReplaced s (f s.a) t := by
  obtain ⟨l, n, hwrites⟩ := h.writes (accept i s)
  rw [perform_of_wellFormed hbusy h.wellFormed (by simp [h.phaseFree]), hwrites]
  exact ⟨_, rfl, l, n, _, rfl⟩

/-- One or more such commands in sequence compose their functions, the first command's innermost. -/
theorem performAll_of_actsOnLanes {is : List Instr} {fs : List (Lanes → Lanes)} (hs : List.Forall₂ ActsOnLanes is fs)
    {i : Instr} {f : Lanes → Lanes} (h : ActsOnLanes i f) {s : State} (hbusy : s.busy = false) :
    ∃ t, performAll (i :: is) s = some t ∧ LanesReplaced s (fs.foldl (fun A g => g A) (f s.a)) t := by
  induction hs generalizing i f s with
  | nil =>
    obtain ⟨t, hperform, ht⟩ := perform_of_actsOnLanes h hbusy
    exact ⟨t, by simp [performAll, hperform], ht⟩
  | cons hnext _ ih =>
    obtain ⟨t, hperform, ht⟩ := perform_of_actsOnLanes h hbusy
    obtain ⟨u, hrest, hu⟩ := ih hnext ht.idle
    rw [ht.lanes_eq] at hu
    exact ⟨u, by rw [performAll, hperform, Option.bind_some, hrest], ht.trans hu⟩

/-- The 24 rounds with the first split off, as a sequence of commands has its first command. -/
theorem keccakF_eq_foldl_later_rounds (A : Lanes) :
    keccakF A = ((List.range' 1 23).map fun r A => rnd A r).foldl (fun A g => g A) (rnd A 0) := by
  rw [keccakF_eq_foldl, List.foldl_map, show List.range 24 = 0 :: List.range' 1 23 from rfl, List.foldl_cons]

/-- ROUND with the index r, given as a number, acts as round r. -/
theorem actsOnLanes_round_ofNat {r : Nat} (hr : r ≤ 23) : ActsOnLanes (.round (BitVec.ofNat 5 r)) (rnd · r) := by
  have hindex : (BitVec.ofNat 5 r).toNat = r := Nat.mod_eq_of_lt (by omega)
  simpa only [hindex] using actsOnLanes_round (r := BitVec.ofNat 5 r) (hindex.trans_le hr)

/-- ROUND 0 to ROUND 23 leave Keccak-f of the lane array. -/
theorem performAll_rounds {s : State} (hbusy : s.busy = false) :
    ∃ t, performAll ((List.range 24).map fun r => .round (BitVec.ofNat 5 r)) s = some t ∧
      LanesReplaced s (keccakF s.a) t := by
  have hlater : List.Forall₂ ActsOnLanes ((List.range' 1 23).map fun r => .round (BitVec.ofNat 5 r))
      ((List.range' 1 23).map fun r A => rnd A r) := by
    rw [List.forall₂_map_left_iff, List.forall₂_map_right_iff, List.forall₂_same]
    exact fun r hr => actsOnLanes_round_ofNat (by rw [List.mem_range'_1] at hr; omega)
  rw [keccakF_eq_foldl_later_rounds]
  exact performAll_of_actsOnLanes hlater (actsOnLanes_round_ofNat (r := 0) (by decide)) hbusy

/-- THETA, RHO, PI, CHI, IOTA r leave round r of the lane array. -/
theorem performAll_stepCommands {s : State} (hbusy : s.busy = false) {r : BitVec 5} (hr : r.toNat ≤ 23) :
    ∃ t, performAll [.theta, .rho, .pi, .chi, .iota r] s = some t ∧ LanesReplaced s (rnd s.a r.toNat) t := by
  have hlater : List.Forall₂ ActsOnLanes [.rho, .pi, .chi, .iota r] [rho, pi, chi, (iota · r.toNat)] :=
    .cons actsOnLanes_rho (.cons actsOnLanes_pi (.cons actsOnLanes_chi (.cons (actsOnLanes_iota hr) .nil)))
  exact performAll_of_actsOnLanes hlater actsOnLanes_theta hbusy

/-- Settles O30: both sides of each equivalence replace the lane array by one and the same array. -/
theorem commandCompositions : Obligations.CommandCompositions := by
  intro s hbusy _
  refine ⟨?_, fun r hr => ?_⟩
  · obtain ⟨t, hrounds, ht⟩ := performAll_rounds hbusy
    obtain ⟨u, hpermute, hu⟩ := perform_of_actsOnLanes actsOnLanes_permute hbusy
    exact ⟨t, u, hrounds, hpermute, ht.lanes_eq.trans hu.lanes_eq.symm, ht.observe_eq hu⟩
  · obtain ⟨t, hsteps, ht⟩ := performAll_stepCommands hbusy hr
    obtain ⟨u, hround, hu⟩ := perform_of_actsOnLanes (actsOnLanes_round hr) hbusy
    exact ⟨t, u, hsteps, hround, ht.lanes_eq.trans hu.lanes_eq.symm, ht.observe_eq hu⟩

end Sys2Proof.Machine

namespace Sys2Proof.Machine

/-! ### Absorbing blocks, on lanes and on the flat state (45_sponge.md R92, R95) -/

/-- The lane array after absorbing blocks one after another. -/
def absorbLanes (A : Lanes) (Ps : List Block) : Lanes := Ps.foldl (fun A P => keccakF (xorblock A P)) A

@[simp] theorem absorbLanes_nil (A : Lanes) : absorbLanes A [] = A := rfl

@[simp] theorem absorbLanes_cons (A : Lanes) (P : Block) (Ps : List Block) :
    absorbLanes A (P :: Ps) = absorbLanes (keccakF (xorblock A P)) Ps := rfl

/-- The commands' absorption acts on A as absorbLanes. -/
@[simp] theorem foldl_absorbBlock_a (Ps : List Block) (s : State) :
    (Ps.foldl absorbBlock s).a = absorbLanes s.a Ps := by
  induction Ps generalizing s with
  | nil => rfl
  | cons P Ps ih => rw [List.foldl_cons, ih, absorbBlock_a, absorbLanes_cons]

/-- R95's absorption of the flat state is that of its lanes. -/
theorem absorbFlat_flat (A : Lanes) (P : Block) : absorbFlat (flat A) P = flat (keccakF (xorblock A P)) := by
  rw [absorbFlat, ← flat_xorblock, lanes_flat]

theorem foldl_absorbFlat_flat (A : Lanes) (Ps : List Block) : Ps.foldl absorbFlat (flat A) = flat (absorbLanes A Ps) := by
  induction Ps generalizing A with
  | nil => rfl
  | cons P Ps ih => rw [List.foldl_cons, absorbFlat_flat, ih, absorbLanes_cons]

theorem flat_replicate_zero : flat (Vector.replicate 25 0) = 0 := by
  refine BitVec.eq_of_getLsbD_eq fun k hk => ?_
  rw [getLsbD_flat _ hk, Vector.getElem_replicate]
  exact BitVec.getLsbD_zero.trans BitVec.getLsbD_zero.symm

/-- The hash of a message is the digest of the lanes that absorbed its padded blocks from zero (R66, R95). -/
theorem spongeHash_eq_digestValue (M : List Bool) :
    spongeHash M = digestValue (squeeze (absorbLanes (Vector.replicate 25 0) (paddedBlocks M))) := by
  rw [spongeHash, digestValue_squeeze, ← foldl_absorbFlat_flat, flat_replicate_zero]

/-! ### The block buffer word by word (10_state.md R15, 41_lane_mapper.md R65) -/

/-- Bit 64·j + z of the block is bit z of word j of the buffer. -/
theorem getLsbD_blockOf_word (B : BlockBuf) (j : Fin 17) {z : Nat} (hz : z < 64) :
    (blockOf B).getLsbD (64 * j.val + z) = B[j.val].getLsbD z := by
  have hdiv : (64 * j.val + z) / 64 = j.val := by omega
  have hmod : (64 * j.val + z) % 64 = z := by omega
  rw [getLsbD_blockOf B (by omega)]
  simp only [hdiv, hmod]

/-- The block of a buffer meets lane i with word i. -/
theorem xorblock_blockOf (A : Lanes) (B : BlockBuf) : xorblock A (blockOf B) =
    Vector.ofFn fun i : Fin 25 => if h : i.val < 17 then A[i.val] ^^^ B[i.val] else A[i.val] := by
  refine Vector.ext fun i hi => ?_
  rw [getElem_xorblock A _ hi, Vector.getElem_ofFn hi]
  split
  · next h => rw [blockOf, extractLsb'_joinWords B (by decide) h]
  · rfl

/-- A buffer loaded with a block holds that block. -/
@[simp] theorem blockOf_loadBlock (P : Block) (s : State) : blockOf (loadBlock P s).b = P := by
  refine BitVec.eq_of_getLsbD_eq fun k hk => ?_
  rw [getLsbD_blockOf _ hk, loadBlock, Vector.getElem_ofFn, BitVec.getLsbD_extractLsb',
    decide_eq_true (Nat.mod_lt k (by decide)), Bool.true_and, Nat.div_add_mod]

/-! ### The sponge commands' completions (45_sponge.md R90 to R93) -/

/-- Settles O11: NOP has no writes. -/
theorem nopCompletes : Obligations.NopCompletes :=
  fun _ hbusy => exec_of_busy hbusy rfl nofun

/-- Settles O12: INIT takes no phase check, and its writes are the zeros. -/
theorem initCompletes : Obligations.InitCompletes :=
  fun _ hbusy => exec_of_busy hbusy rfl nofun

/-- The end of ABSORB: the block in B is absorbed and counted (R92). -/
theorem complete_writesOf_absorb (s : State) : complete (writesOf .absorb s) =
    { s with
      a := keccakF (xorblock s.a (blockOf s.b)), blkcnt := s.blkcnt + 1, lfsr := Config.lfsrLeft s.draws,
      draws := s.draws + 1, busy := false, done := true, pend := none, roundCtr := none } := rfl

/-- Settles O13: the block that ABSORB XORs into the lanes is B word by word. -/
theorem absorbCompletes : Obligations.AbsorbCompletes := by
  intro s hbusy hphase
  rw [exec_of_busy hbusy rfl fun _ => hphase, complete_writesOf_absorb, xorblock_blockOf]
  exact ⟨_, _, rfl⟩

/-- The end of FINAL: the aligner's blocks are absorbed and counted, and their digest is latched (R93). -/
theorem complete_writesOf_final {n : BitVec 11} {s : State} {Ps : List Block} (hPs : align (blockOf s.b) n.toNat = Ps) :
    complete (writesOf (.final n) s) =
      { s with
        a := absorbLanes s.a Ps, d := squeeze (absorbLanes s.a Ps), dvalid := true,
        blkcnt := s.blkcnt + BitVec.ofNat 64 Ps.length, lfsr := Config.lfsrLeft s.draws, draws := s.draws + 1,
        busy := false, done := true, pend := none, roundCtr := none } := by
  subst hPs
  rw [← foldl_absorbBlock_a]
  simp only [writesOf]
  rw [foldl_absorbBlock_frame]
  rfl

/-- A busy engine in phase ABSORBING completes FINAL with the aligner's blocks. -/
theorem exec_final_of_busy {n : BitVec 11} {s : State} {Ps : List Block} (hbusy : s.busy = true) (hphase : s.dvalid = false)
    (hn : n.toNat ≤ 1087) (hPs : align (blockOf s.b) n.toNat = Ps) :
    ∃ t, exec (.final n) s = .next t ∧ t.a = absorbLanes s.a Ps ∧ (∀ k : Fin 4, t.d[k.val] = t.a[k.val]) ∧
      t = { s with
            a := t.a, d := t.d, dvalid := true, blkcnt := s.blkcnt + BitVec.ofNat 64 Ps.length, lfsr := t.lfsr,
            draws := t.draws, busy := false, done := true, pend := none, roundCtr := none } := by
  rw [exec_of_busy hbusy ((final_wellFormed_iff n).2 hn) fun _ => hphase, complete_writesOf_final hPs]
  exact ⟨_, rfl, rfl, fun k => getElem_squeeze _ k.isLt, rfl⟩

/-- Settles O14: the aligner's one block, read word by word. -/
theorem finalCompletesInOneBlock : Obligations.FinalCompletesInOneBlock := by
  intro s nb hbusy hphase hnb
  obtain ⟨P, hP, hbits⟩ := align_one_block (blockOf s.b) hnb
  obtain ⟨t, hexec, ha, hd, hframe⟩ := exec_final_of_busy hbusy hphase (by omega) hP
  refine ⟨P, t, hexec, fun j z hz => ?_, ha, hd, hframe⟩
  rw [hbits _ (by omega), getLsbD_blockOf_word s.b j hz]

/-- Settles O15: the aligner's two blocks, the first read word by word. -/
theorem finalCompletesInTwoBlocks : Obligations.FinalCompletesInTwoBlocks := by
  intro s hbusy hphase
  obtain ⟨P, Q, hPQ, hP, hQ⟩ := align_two_blocks (blockOf s.b)
  obtain ⟨t, hexec, ha, hd, hframe⟩ := exec_final_of_busy (n := 1087) hbusy hphase (by decide) hPQ
  refine ⟨P, Q, t, hexec, fun j z hz => ?_, hQ, ha, hd, hframe⟩
  rw [hP _ (by omega), getLsbD_blockOf_word s.b j hz]

/-! ### Loading the block buffer (45_sponge.md R95) -/

@[simp] theorem loadBlock_a (P : Block) (s : State) : (loadBlock P s).a = s.a := rfl
@[simp] theorem loadBlock_blkcnt (P : Block) (s : State) : (loadBlock P s).blkcnt = s.blkcnt := rfl
@[simp] theorem loadBlock_busy (P : Block) (s : State) : (loadBlock P s).busy = s.busy := rfl
@[simp] theorem loadBlock_dvalid (P : Block) (s : State) : (loadBlock P s).dvalid = s.dvalid := rfl

/-! ### The commands of R95's program (45_sponge.md R95) -/

/-- What R95's program leaves for the Host: the digest of the lanes A, the number of blocks n, and an engine that is done. -/
structure DigestReady (A : Lanes) (n : Word) (t : State) : Prop where
  digest : t.d = squeeze A
  count : t.blkcnt = n
  dvalid : t.dvalid = true
  done : t.done = true
  idle : t.busy = false

/-- INIT on any idle engine leaves an idle engine in phase ABSORBING with zero lanes and count. -/
theorem perform_init {s : State} (hbusy : s.busy = false) : ∃ t, perform .init s = some t ∧
    t.busy = false ∧ t.dvalid = false ∧ t.a = Vector.replicate 25 0 ∧ t.blkcnt = 0 :=
  ⟨_, perform_of_wellFormed hbusy rfl nofun, rfl, rfl, rfl, rfl⟩

/-- ABSORB of a loaded block, from an idle engine in phase ABSORBING to an idle engine in phase ABSORBING. -/
theorem perform_absorb {s : State} (P : Block) (hbusy : s.busy = false) (hphase : s.dvalid = false) :
    ∃ t, perform .absorb (loadBlock P s) = some t ∧ t.busy = false ∧ t.dvalid = false ∧
      t.a = keccakF (xorblock s.a P) ∧ t.blkcnt = s.blkcnt + 1#64 := by
  have hload : (loadBlock P s).dvalid = false := by rw [loadBlock_dvalid, hphase]
  rw [perform_of_wellFormed (by rw [loadBlock_busy, hbusy]) rfl fun _ => hload, complete_writesOf_absorb, accept_a, accept_b,
    accept_blkcnt, accept_dvalid, hload, loadBlock_a, loadBlock_blkcnt, blockOf_loadBlock]
  exact ⟨_, rfl, rfl, rfl, rfl, rfl⟩

/-- FINAL of a loaded tail absorbs the tail's padded blocks and squeezes. -/
theorem perform_final {s : State} {T : List Bool} (hT : T.length < 1088) (hbusy : s.busy = false)
    (hphase : s.dvalid = false) :
    ∃ t, perform (.final (BitVec.ofNat 11 T.length)) (loadBlock (blockOfBits T) s) = some t ∧
      DigestReady (absorbLanes s.a (paddedBlocks T)) (s.blkcnt + BitVec.ofNat 64 (paddedBlocks T).length) t := by
  have hload : (loadBlock (blockOfBits T) s).dvalid = false := by rw [loadBlock_dvalid, hphase]
  have hlength : (BitVec.ofNat 11 T.length).toNat = T.length := Nat.mod_eq_of_lt (by omega)
  have hblocks : align (blockOf (loadBlock (blockOfBits T) s).b) (BitVec.ofNat 11 T.length).toNat = paddedBlocks T := by
    rw [blockOf_loadBlock, hlength]
    exact (paddedBlocks_eq_align hT fun t ht => getLsbD_blockOfBits T (by omega)).symm
  rw [perform_of_wellFormed (by rw [loadBlock_busy, hbusy]) (final_wellFormed hT) fun _ => hload,
    complete_writesOf_final (by rw [accept_b, hblocks]), accept_a,
    accept_blkcnt, loadBlock_a, loadBlock_blkcnt]
  exact ⟨_, rfl, rfl, rfl, rfl, rfl, rfl⟩

/-- The first full block of a message comes first in its block sequence. -/
theorem paddedBlocks_eq_cons {M : List Bool} (h : 1088 ≤ M.length) :
    paddedBlocks M = blockOfBits (M.take 1088) :: paddedBlocks (M.drop 1088) :=
  paddedBlocks_eq_append (k := 1) h

/-- R95's commands after INIT absorb the padded message's blocks and squeeze, by induction on the number of full blocks. -/
theorem hashPerform_digestReady {k : Nat} {M : List Bool} {s : State} (hk : M.length / 1088 = k) (hbusy : s.busy = false)
    (hphase : s.dvalid = false) : ∃ t, hashPerform k M s = some t ∧
      DigestReady (absorbLanes s.a (paddedBlocks M)) (s.blkcnt + BitVec.ofNat 64 (paddedBlocks M).length) t := by
  induction k generalizing M s with
  | zero => exact perform_final (by omega) hbusy hphase
  | succ k ih =>
    obtain ⟨u, habsorb, hidle, habsorbing, ha, hcount⟩ := perform_absorb (blockOfBits (M.take 1088)) hbusy hphase
    obtain ⟨t, hrest, ht⟩ := ih (M := M.drop 1088) (by rw [List.length_drop]; omega) hidle habsorbing
    refine ⟨t, by rw [hashPerform, habsorb, Option.bind_some, hrest], ?_⟩
    rwa [ha, hcount, BitVec.add_assoc, BitVec.add_comm 1#64, ← BitVec.ofNat_add, ← absorbLanes_cons,
      ← List.length_cons (a := blockOfBits (M.take 1088)), ← paddedBlocks_eq_cons (by omega)] at ht

/-- Settles O39: INIT gives the zero state from which the hash is defined, and the blocks absorbed are those of the message. -/
theorem commandsComputeTheHash : Obligations.CommandsComputeTheHash := by
  intro M s hbusy _
  obtain ⟨u, hinit, hidle, habsorbing, ha, hcount⟩ := perform_init hbusy
  obtain ⟨t, hrest, ht⟩ := hashPerform_digestReady (M := M) rfl hidle habsorbing
  refine ⟨t, by rw [hinit, Option.bind_some, hrest], ?_, ?_, ht.dvalid, ht.done, ht.idle⟩
  · rw [ht.digest, ha, spongeHash_eq_digestValue]
  · rw [ht.count, hcount, zero_add, paddedBlocks, length_blocksOf]

end Sys2Proof.Machine

namespace Sys2Proof.Machine

/-! ### A CMD write that is dropped or rejected (60_exceptions.md R100, R101, R104) -/

/-- The commands with a phase check are ABSORB and FINAL (R23). -/
theorem needsAbsorbing_iff (i : Instr) : needsAbsorbing i = true ↔ i = .absorb ∨ ∃ n, i = .final n := by
  cases i <;> simp [needsAbsorbing]

theorem submit_of_busy {s : State} (v : Word) (hbusy : s.busy = true) : submit v s = .next (busyDrop s) := by
  simp [submit, hbusy]

theorem submit_of_decode_error {v : Word} {s : State} {e : DecodeError} (hbusy : s.busy = false)
    (hdec : decode v = .error e) : submit v s = .next (rejectCommand .illegal s) := by
  simp [submit, hbusy, hdec]

theorem submit_of_decode_ok {v : Word} {s : State} {i : Instr} (hbusy : s.busy = false) (hdec : decode v = .ok i) :
    submit v s = exec i s := by
  simp [submit, hbusy, hdec]

/-- A command whose operand is out of range is rejected with BADARG, in either phase (R53). -/
theorem submit_of_not_wellFormed {v : Word} {s : State} {i : Instr} (hbusy : s.busy = false) (hdec : decode v = .ok i)
    (hwf : ¬ i.WellFormed) : submit v s = .next (rejectCommand .badarg s) := by
  rw [submit_of_decode_ok hbusy hdec, exec_of_not_wellFormed s hwf]

/-- ABSORB and FINAL, with an operand in range, are rejected with SEQUENCE in phase SQUEEZED (R118). -/
theorem submit_of_squeezed {v : Word} {s : State} {i : Instr} (hbusy : s.busy = false) (hphase : s.dvalid = true)
    (hdec : decode v = .ok i) (hwf : i.WellFormed) (hi : i = .absorb ∨ ∃ n, i = .final n) :
    submit v s = .next (rejectCommand .sequence s) := by
  rw [submit_of_decode_ok hbusy hdec, exec_eq, runCommand_rejected]
  simp [admission, (argCheck_none_iff i).2 hwf, phaseCheck, (needsAbsorbing_iff i).2 hi, hphase]

/-- A command that meets no error is accepted (R118). -/
theorem submit_of_admitted {v : Word} {s : State} {i : Instr} (hbusy : s.busy = false) (hdec : decode v = .ok i)
    (hwf : i.WellFormed) (hphase : s.dvalid = true → i ≠ .absorb ∧ ∀ n, i ≠ .final n) :
    submit v s = .next (accept i s) := by
  have hneeds : needsAbsorbing i = true → s.dvalid = false := by
    intro hi
    by_contra hsqueezed
    obtain ⟨habsorb, hfinal⟩ := hphase (by simpa using hsqueezed)
    rcases (needsAbsorbing_iff i).1 hi with h | ⟨n, h⟩
    · exact habsorb h
    · exact hfinal n h
  rw [submit_of_decode_ok hbusy hdec, exec_of_wellFormed hbusy hwf hneeds]

/-- After a rejection DONE is 1, so irq is IE (R26, R100). -/
theorem rejectCommand_irq (e : CmdError) (s : State) : (rejectCommand e s).irq = s.ie := by
  rw [State.irq, rejectCommand_done, rejectCommand_ie, Bool.and_true]

/-- Settles O9: each of the three conditions leads to `rejectCommand` with its own code. -/
theorem rejectedCommandEffect : Obligations.RejectedCommandEffect := by
  intro v s code hbusy hcond
  have hreject : ∃ e : CmdError, e.code = code ∧ submit v s = .next (rejectCommand e s) := by
    rcases hcond with ⟨rfl, e, hdec⟩ | ⟨rfl, i, hdec, hwf⟩ | ⟨rfl, hphase, i, hdec, hwf, hi⟩
    · exact ⟨.illegal, rfl, submit_of_decode_error hbusy hdec⟩
    · exact ⟨.badarg, rfl, submit_of_not_wellFormed hbusy hdec hwf⟩
    · exact ⟨.sequence, rfl, submit_of_squeezed hbusy hphase hdec hwf hi⟩
  obtain ⟨e, rfl, hsubmit⟩ := hreject
  exact ⟨_, hsubmit, rfl, hbusy, rejectCommand_irq e s⟩

/-! ### Accesses that get a bus error (60_exceptions.md R102) -/

/-- A read that reaches no readable register is a bus error and nothing else. -/
theorem hostRead_bus_error {width : Nat} {off : Int} {s : State} (hline : s.resetLine = false)
    (hin : inWindow off = true) (h : ¬ ∃ r, target width off = some r ∧ r.readable = true) :
    hostRead width off s = .next (respond (.busError off) s) := by
  cases ht : target width off with
  | none => simp [hostRead, hline, hin, ht]
  | some r =>
    have hr : r.readable = false := by simpa [ht] using h
    simp [hostRead, hline, hin, ht, hr]

/-- A write that reaches no writable register is a bus error and nothing else. -/
theorem hostWrite_bus_error {width : Nat} {off : Int} {s : State} (v : Word) (hline : s.resetLine = false)
    (hin : inWindow off = true) (h : ¬ ∃ r, target width off = some r ∧ r.writable = true) :
    hostWrite width off v s = .next (respond (.busError off) s) := by
  cases ht : target width off with
  | none => simp [hostWrite, hline, hin, ht]
  | some r =>
    have hr : r.writable = false := by simpa [ht] using h
    simp [hostWrite, hline, hin, ht, hr]

/-- An access of a width other than 8 reaches no register (R36). -/
theorem target_of_width_ne {width : Nat} (off : Int) (h : width ≠ 8) : target width off = none := if_neg h

/-- Settles O10: the errors of a CMD write one by one, each with the earlier ones excluded. -/
theorem commandErrorPriority : Obligations.CommandErrorPriority := by
  intro s width v hline
  refine ⟨fun hwidth => hostWrite_bus_error v hline (by decide) (by simp [target_of_width_ne _ hwidth]), ?_⟩
  rw [hostWrite_cmd v hline]
  refine ⟨fun hbusy => submit_of_busy v hbusy, fun hbusy e hdec => submit_of_decode_error hbusy hdec,
    fun hbusy i hdec hwf => submit_of_not_wellFormed hbusy hdec hwf,
    fun hbusy hphase i hdec hwf hi => submit_of_squeezed hbusy hphase hdec hwf hi,
    fun hbusy i hdec hwf hphase => ⟨_, submit_of_admitted hbusy hdec hwf hphase, rfl, ?_, rfl, rfl⟩⟩
  rw [accept_pend, encode_eq_of_decode hdec]

/-! ### Which accesses inside the window reach a register (20_memory.md R35 to R37) -/

/-- The accesses inside the window that reach no register: a width other than 8, a misaligned offset or a reserved one (R36, R37). -/
def ReachesNoRegister (width : Nat) (off : Int) : Prop :=
  width ≠ 8 ∨ off % 8 ≠ 0 ∨ (0x0C8 ≤ off ∧ off < 0x100) ∨ (0x188 ≤ off ∧ off < 0x200) ∨
    (0x220 ≤ off ∧ off < 0x300) ∨ 0x328 ≤ off

/-- An 8-byte access at a register's own offset reaches a register. -/
theorem not_reachesNoRegister_offset (r : Reg) : ¬ ReachesNoRegister 8 (r.offset : Int) := by
  cases r <;> simp only [ReachesNoRegister, Reg.offset] <;> omega

/-- What is left beside `ReachesNoRegister` is the offset of a register: of A, B or D by its range, or one of the five after them. -/
theorem exists_offset_eq {width : Nat} {off : Int} (hpos : 0 ≤ off) (h : ¬ ReachesNoRegister width off) :
    ∃ r : Reg, off = (r.offset : Int) := by
  simp only [ReachesNoRegister] at h
  by_cases ha : off < 0x0C8
  · exact ⟨.a ⟨off.toNat / 8, by omega⟩, by simp only [Reg.offset]; omega⟩
  by_cases hb : off < 0x188
  · exact ⟨.b ⟨off.toNat / 8 - 32, by omega⟩, by simp only [Reg.offset]; omega⟩
  by_cases hd : off < 0x220
  · exact ⟨.d ⟨off.toNat / 8 - 64, by omega⟩, by simp only [Reg.offset]; omega⟩
  have hrest : off = 0x300 ∨ off = 0x308 ∨ off = 0x310 ∨ off = 0x318 ∨ off = 0x320 := by omega
  rcases hrest with rfl | rfl | rfl | rfl | rfl
  exacts [⟨.cmd, rfl⟩, ⟨.status, rfl⟩, ⟨.ctrl, rfl⟩, ⟨.blkcnt, rfl⟩, ⟨.rcout, rfl⟩]

/-- An access reaches a register with permission `p`, where `q` says by offset which registers lack it, exactly when it reaches a
register and `q` does not hold of its offset. -/
theorem reaches_permitted_iff {p : Reg → Bool} {q : Int → Prop} (hpq : ∀ r : Reg, p r = true ↔ ¬ q r.offset) {width : Nat}
    {off : Int} (hin : inWindow off = true) :
    (∃ r, target width off = some r ∧ p r = true) ↔ ¬ (ReachesNoRegister width off ∨ q off) := by
  constructor
  · rintro ⟨r, hr, hp⟩
    obtain ⟨rfl, rfl⟩ := target_offset hin hr
    exact not_or.2 ⟨not_reachesNoRegister_offset r, (hpq r).1 hp⟩
  · intro h
    obtain ⟨hreg, hq⟩ := not_or.1 h
    have hwidth : width = 8 := by_contra fun hne => hreg (.inl hne)
    have hpos : 0 ≤ off := by
      simp only [inWindow, Bool.and_eq_true, decide_eq_true_eq] at hin
      exact hin.1
    obtain ⟨r, rfl⟩ := exists_offset_eq hpos hreg
    exact ⟨r, by rw [hwidth, target_of_offset], (hpq r).2 hq⟩

/-- CMD is the register that cannot be read, by its offset (R37). -/
theorem readable_iff_offset (r : Reg) : r.readable = true ↔ ¬ (r.offset : Int) = 0x300 := by
  cases r <;> simp [Reg.readable, Reg.offset] <;> omega

/-- The offsets of D, BLKCNT and RCOUT (R35). -/
def ReadOnlyOffset (off : Int) : Prop := (0x200 ≤ off ∧ off < 0x220) ∨ off = 0x318 ∨ off = 0x320

/-- D, BLKCNT and RCOUT are the registers that cannot be written (R37). -/
theorem writable_iff_offset (r : Reg) : r.writable = true ↔ ¬ ReadOnlyOffset r.offset := by
  cases r <;> simp [Reg.writable, ReadOnlyOffset, Reg.offset] <;> omega

/-! ### Accesses the bus completes (60_exceptions.md R102) -/

/-- A permitted read answers data, and changes at most the draw counter. -/
theorem hostRead_data {width : Nat} {off : Int} {s : State} (hline : s.resetLine = false)
    (hin : inWindow off = true) (h : ∃ r, target width off = some r ∧ r.readable = true) :
    ∃ x n, hostRead width off s = .next { s with responses := .data x :: s.responses, draws := n } := by
  obtain ⟨r, hr, hread⟩ := h
  have hnext : hostRead width off s = .next (readReg r s) := by simp [hostRead, hline, hin, hr, hread]
  rcases readReg_cases r s with h | ⟨-, -, x, h⟩ <;> exact ⟨_, _, by rw [hnext, h]; rfl⟩

/-- A CMD write answers nothing itself. -/
theorem submit_responses (v : Word) (s : State) : ∃ t, submit v s = .next t ∧ t.responses = s.responses := by
  have htotal : ∃ t, submit v s = .next t := by
    rcases submit_cases v s with ⟨-, h⟩ | ⟨-, e, -, h⟩ | ⟨-, i, -, h⟩
    · exact ⟨_, h⟩
    · exact ⟨_, h⟩
    · exact h ▸ exec_next i s
  obtain ⟨t, ht⟩ := htotal
  refine ⟨t, ht, ?_⟩
  rcases submit_next ht with ⟨-, rfl⟩ | ⟨-, e, -, rfl⟩ | ⟨-, i, -, -, rfl⟩ <;> rfl

/-- A register's write always ends, and answers nothing itself. -/
theorem writeReg_responses (r : Reg) (v : Word) (s : State) :
    ∃ t, writeReg r v s = .next t ∧ t.responses = s.responses := by
  cases r with
  | a i | b j => exact ⟨_, rfl, by split <;> rfl⟩
  | cmd => exact submit_responses v s
  | status | ctrl | d _ | blkcnt | rcout => exact ⟨_, rfl, rfl⟩

/-- A permitted write is completed by the bus. -/
theorem hostWrite_written {width : Nat} {off : Int} {s : State} (v : Word) (hline : s.resetLine = false)
    (hin : inWindow off = true) (h : ∃ r, target width off = some r ∧ r.writable = true) :
    ∃ t, hostWrite width off v s = .next t ∧ t.responses = .written :: s.responses := by
  obtain ⟨r, hr, hw⟩ := h
  obtain ⟨rfl, -⟩ := target_some hr
  rw [hostWrite_of_target v hline hin hr hw]
  exact writeReg_responses r v (respond .written s)

/-- Settles O41: inside the window an access is answered normally exactly when it reaches a register with the permission it needs. -/
theorem busErrorsExactly : Obligations.BusErrorsExactly := by
  intro s width off v hline hpos hlt bad
  have hin : inWindow off = true := by simp [inWindow, hpos, Config.windowSize, hlt]
  have hread := reaches_permitted_iff (q := (· = 0x300)) (width := width) readable_iff_offset hin
  have hwrite := reaches_permitted_iff (width := width) writable_iff_offset hin
  exact ⟨fun h => hostRead_bus_error hline hin fun hr => hread.1 hr h, fun h => hostRead_data hline hin (hread.2 h),
    fun h => hostWrite_bus_error v hline hin fun hw => hwrite.1 hw h, fun h => hostWrite_written v hline hin (hwrite.2 h)⟩

end Sys2Proof.Machine

namespace Sys2Proof.Machine

/-! ### Accesses the spec gives no meaning (20_memory.md R48, 70_reset_and_hazards.md R116) -/

theorem inWindow_eq_false_iff (off : Int) : inWindow off = false ↔ off < 0 ∨ 0x400 ≤ off := by
  rw [inWindow, Bool.and_eq_false_iff, decide_eq_false_iff_not, decide_eq_false_iff_not, Config.windowSize]
  omega

/-- Settles O48: the two refusals come before every other check of an access. -/
theorem refusedAccesses : Obligations.RefusedAccesses := by
  intro s width off v
  refine ⟨fun hline => by simp [hostRead, hostWrite, hline], fun hline hoff => ?_⟩
  simp [hostRead, hostWrite, hline, (inWindow_eq_false_iff off).2 hoff]

/-! ### Reads and writes in either phase of the lifecycle (70_reset_and_hazards.md R120) -/

/-- A register whose reads stay defined while BUSY = 1 is read as it stands, BUSY or not (R39, R120). -/
theorem hostRead_of_defined {s : State} (hline : s.resetLine = false) {off : Int} (r : Reg) (hoff : off = (r.offset : Int))
    (hr : r.readable = true) (hdefined : r.arbitraryWhileBusy = false) :
    hostRead 8 off s = .next (respond (.data (readValue s r)) s) := by
  rw [hoff, hostRead_offset hline hr]
  simp [readReg, hdefined]

/-- A turn of WAIT reads STATUS, and leaves another turn to come while BUSY = 1 (R55). -/
theorem takeEvent_wait {s : State} (hline : s.resetLine = false) : takeEvent .wait s =
    .next (respond (.data s.status) (if s.busy then { s with events := .wait :: s.events } else s)) := by
  have hread : ∀ u : State, u.resetLine = false → hostRead 8 0x308 u = .next (respond (.data u.status) u) :=
    fun u hu => hostRead_of_defined hu .status rfl rfl rfl
  have hbit : s.status.getLsbD 0 = s.busy := by rw [getLsbD_status]; simp
  rw [takeEvent, hostWait, hbit]
  split
  · exact hread { s with events := .wait :: s.events } hline
  · exact hread s hline

/-- A write of CMD, A or B is dropped while BUSY = 1 (R101). -/
theorem writeReg_dropped {s : State} (hbusy : s.busy = true) (v : Word) {r : Reg}
    (hr : r = .cmd ∨ (∃ i, r = .a i) ∨ ∃ j, r = .b j) : writeReg r v s = .next (busyDrop s) := by
  rcases hr with rfl | ⟨i, rfl⟩ | ⟨j, rfl⟩
  · exact submit_of_busy v hbusy
  · simp [writeReg, hbusy]
  · simp [writeReg, hbusy]

/-- While BUSY = 1 a Host write takes effect in STATUS and CTRL only (R120). -/
theorem writeReg_next_of_busy {r : Reg} {v : Word} {s t : State} (hbusy : s.busy = true) (hw : r.writable = true)
    (h : writeReg r v s = .next t) : t = busyDrop s ∨ t = writeStatus v s ∨ t = writeCtrl v s := by
  rcases writeReg_cases hw h with ⟨i, -, h⟩ | ⟨j, -, h⟩ | ⟨-, h⟩ | ⟨-, rfl⟩ | ⟨-, rfl⟩
  · exact .inl (h.resolve_right (by simp [hbusy])).2
  · exact .inl (h.resolve_right (by simp [hbusy])).2
  · rw [submit_of_busy v hbusy] at h
    exact .inl (Host.Outcome.next.inj h).symm
  · exact .inr (.inl rfl)
  · exact .inr (.inr rfl)

/-- While a command is pending, an input other than the assertion of reset reaches only DONE, ERR and IE of the registers, and the
Host's own lists: of what is left to come, all but the input itself was to come before (R120). -/
theorem takeEvent_of_busy {e : Event} {s t : State} (hbusy : s.busy = true) (hline : s.resetLine = false)
    (he : e ≠ .assertReset) (h : takeEvent e s = .next t) :
    ∃ done err ie events responses draws, t = { s with done, err, ie, events, responses, draws } ∧
      ∀ e' ∈ events, e' = e ∨ e' ∈ s.events := by
  rcases takeEvent_next h with ⟨rfl, -⟩ | ⟨-, rfl⟩ | ⟨-, ⟨off, rfl⟩ | ⟨width, off, r, -, rfl⟩ | ⟨rfl, rfl⟩ | ⟨v, r, -, hw, h⟩⟩
  · exact absurd rfl he
  · rw [releaseReset, if_neg (by simp [hline])]
    exact ⟨_, _, _, _, _, _, rfl, fun _ => .inr⟩
  · exact ⟨_, _, _, _, _, _, rfl, fun _ => .inr⟩
  · rcases readReg_cases r s with h | ⟨-, -, x, h⟩ <;> rw [h] <;> exact ⟨_, _, _, _, _, _, rfl, fun _ => .inr⟩
  · rw [if_pos hbusy]
    exact ⟨_, _, _, _, _, _, rfl, fun _ => List.mem_cons.1⟩
  · rcases writeReg_next_of_busy (s := respond .written s) hbusy hw h with rfl | rfl | rfl <;>
      exact ⟨_, _, _, _, _, _, rfl, fun _ => .inr⟩

/-- Settles O43: the reads by register, the drops, the two writes that take effect, and the frame of every input. -/
theorem busyWindow : Obligations.BusyWindow := by
  intro s v hbusy hline
  have hfree : ∀ (r : Reg) (off : Int), off = (r.offset : Int) → r.readable = true →
      ∃ x n, hostRead 8 off s = .next { s with responses := .data x :: s.responses, draws := n } := fun r off hoff hr =>
    hoff ▸ hostRead_data hline (inWindow_offset r) ⟨r, target_of_offset r, hr⟩
  have hread := @hostRead_of_defined s hline
  refine ⟨fun i => hfree (.a i) _ ?_ rfl, fun j => hfree (.b j) _ ?_ rfl, fun k => hread (.d k) ?_ rfl rfl,
    hread .blkcnt rfl rfl rfl, hread .rcout rfl rfl rfl, hread .status rfl rfl rfl, ?_,
    ctrl_eq s ▸ hread .ctrl rfl rfl rfl, fun off hoff => ?_, ?_, hostWrite_ctrl v hline, fun e t he h => ?_⟩
  · simp [Reg.offset]
  · simp [Reg.offset]
  · simp [Reg.offset]
  · simp [getLsbD_status, hbusy]
  · have hreg : ∃ r : Reg, off = (r.offset : Int) ∧ (r = .cmd ∨ (∃ i, r = .a i) ∨ ∃ j, r = .b j) := by
      rcases hoff with rfl | ⟨i, rfl⟩ | ⟨j, rfl⟩
      · exact ⟨.cmd, rfl, .inl rfl⟩
      · exact ⟨.a i, by simp [Reg.offset], .inr (.inl ⟨i, rfl⟩)⟩
      · exact ⟨.b j, by simp [Reg.offset], .inr (.inr ⟨j, rfl⟩)⟩
    obtain ⟨r, rfl, hr⟩ := hreg
    have hw : r.writable = true := by rcases hr with rfl | ⟨i, rfl⟩ | ⟨j, rfl⟩ <;> rfl
    rw [hostWrite_offset v hline hw, writeReg_dropped (s := respond .written s) hbusy v hr]
    rfl
  · have hdone : (s.done && !v.getLsbD 1) = if v.getLsbD 1 then false else s.done := by cases v.getLsbD 1 <;> simp
    rw [hostWrite_status v hline, hdone]
    rfl
  · obtain ⟨_, _, _, _, _, _, rfl, -⟩ := takeEvent_of_busy hbusy hline he h
    exact ⟨rfl, rfl, rfl, rfl, rfl, rfl, rfl, hbusy⟩

/-! ### Acceptance (70_reset_and_hazards.md R118) -/

/-- The commands that run the permutation are PERMUTE, ABSORB and FINAL (R29). -/
theorem runsPermutation_iff (i : Instr) :
    runsPermutation i = true ↔ i = .permute ∨ i = .absorb ∨ ∃ nb, i = .final nb := by
  cases i <;> simp [runsPermutation]

/-- Settles O8: `accept` is all that happens, and its round counter runs below 24 for a permutation only. -/
theorem acceptanceEffect : Obligations.AcceptanceEffect := by
  intro i s hbusy hwf hphase
  refine ⟨_, _, _, submit_of_admitted hbusy (decodeOfEncode i) hwf hphase, fun m hm => ?_, fun hc => ?_⟩
  · split at hm
    · exact Option.some.inj hm ▸ roundCount_lt s.draws
    · cases hm
  · by_contra hother
    exact hc (if_neg (mt (runsPermutation_iff i).1 hother))

/-! ### Reset (70_reset_and_hazards.md R116) -/

/-- Settles O49: reset by evaluation, and INIT by its own completion, which leaves only IE and DONE as they were. -/
theorem resetValues : Obligations.ResetValues := by
  refine ⟨⟨rfl, rfl, rfl, rfl, rfl, rfl, rfl, rfl, rfl, rfl, rfl, rfl, rfl, rfl⟩, fun s => ⟨_, _, rfl, rfl, rfl, rfl⟩,
    fun s hbusy hie => ⟨_, initCompletes s hbusy, ?_⟩⟩
  simp [State.observe, State.status, State.ctrl, State.irq, State.reset, hie]

/-- Settles O50: reset is asserted reset with the line released, and nothing pending. -/
theorem invariantAtReset : Obligations.InvariantAtReset :=
  (inv_assertReset State.reset).of_kept_lifecycle rfl rfl rfl rfl rfl rfl (Nat.zero_le _)

/-! ### Steps that do not stop (60_exceptions.md R105) -/

/-- A sound busy state has a command pending that passes its checks (R28, R118). -/
theorem State.Inv.exists_pending {s : State} (hI : s.Inv) (hbusy : s.busy = true) :
    ∃ i, s.pend = some (encode i) ∧ admission i s = none := by
  obtain ⟨v, hv⟩ := Option.isSome_iff_exists.1 (hI.busy_iff_pend ▸ hbusy)
  have hadm := hI.pend_admissible v hv
  unfold admissible at hadm
  split at hadm
  · next i hdec => exact ⟨i, by rw [hv, encode_eq_of_decode hdec], by simpa using hadm⟩
  · cases hadm

/-- The Engine completes a pending command that passes its checks (R118, R119). -/
theorem engineStep_of_pending {s : State} {i : Instr} (hbusy : s.busy = true) (hpend : s.pend = some (encode i))
    (hadm : admission i s = none) : engineStep s = .next (complete (writesOf i s)) := by
  simp only [engineStep, hpend, decodeOfEncode i]
  rw [exec_eq, runCommand_completed _ hadm hbusy]

/-- An input is taken, or it is an access that the machine refuses by name. -/
theorem takeEvent_ends (e : Event) (s : State) :
    (∃ t, takeEvent e s = .next t) ∨
    (s.resetLine = true ∧ takeEvent e s = .refused .accessDuringReset) ∨
    ∃ width off v, (e = .read width off ∨ e = .write width off v) ∧ inWindow off = false ∧
      takeEvent e s = .refused (.accessOutsideWindow off) := by
  cases e with
  | read width off =>
    rcases hostRead_cases width off s with ⟨hr, h⟩ | ⟨-, hout, h⟩ | ⟨-, -, -, h⟩ | ⟨-, -, r, -, -, h⟩
    · exact .inr (.inl ⟨hr, h⟩)
    · exact .inr (.inr ⟨width, off, 0, .inl rfl, hout, h⟩)
    · exact .inl ⟨_, h⟩
    · exact .inl ⟨_, h⟩
  | write width off v =>
    rcases hostWrite_cases width off v s with ⟨hr, h⟩ | ⟨-, hout, h⟩ | ⟨-, -, -, h⟩ | ⟨-, -, r, -, -, h⟩
    · exact .inr (.inl ⟨hr, h⟩)
    · exact .inr (.inr ⟨width, off, v, .inr rfl, hout, h⟩)
    · exact .inl ⟨_, h⟩
    · obtain ⟨t, ht, -⟩ := writeReg_responses r v (respond .written s)
      exact .inl ⟨t, h.trans ht⟩
  | wait =>
    cases hline : s.resetLine with
    | true => exact .inr (.inl ⟨rfl, by simp [takeEvent, hostWait, hostRead, hline]⟩)
    | false => exact .inl ⟨_, takeEvent_wait hline⟩
  | assertReset | releaseReset => exact .inl ⟨_, rfl⟩

/-- Settles O52: the pending command completes, and an input is taken or refused. -/
theorem noFaultFromTheInvariant : Obligations.NoFaultFromTheInvariant := by
  intro s hI
  rcases step_cases s with ⟨hbusy, -, h⟩ | ⟨e, rest, -, -, h⟩ | ⟨-, -, h⟩
  · obtain ⟨i, hpend, hadm⟩ := hI.exists_pending hbusy
    simp [h, engineStep_of_pending hbusy hpend hadm]
  · rw [h]
    rcases takeEvent_ends e (dropEvent s) with ⟨t, ht⟩ | ⟨hline, ht⟩ | ⟨width, off, v, -, hout, ht⟩
    · simp [ht]
    · refine ⟨by simp [ht], fun r hr => .inl ⟨?_, hline⟩⟩
      rw [ht] at hr
      exact (Host.Outcome.refused.inj hr).symm
    · refine ⟨by simp [ht], fun r hr => .inr ⟨off, ?_, (inWindow_eq_false_iff off).1 hout⟩⟩
      rw [ht] at hr
      exact (Host.Outcome.refused.inj hr).symm
  · simp [h]

/-! ### The length of the busy window (70_reset_and_hazards.md R122, R124) -/

theorem run_succ_of_step {s t : State} (h : step s = .next t) (k : Nat) :
    Sys2Proof.core.run (k + 1) s = Sys2Proof.core.run k t := by
  simp only [Host.Core.run, show Sys2Proof.core.step s = .next t from h]

/-- A command that is not yet due leaves the step to the next input. -/
theorem step_of_not_due {s : State} {e : Event} {rest : List Event} (hev : s.events = e :: rest) (hdelay : s.delay ≠ 0) :
    step s = takeEvent e (dropEvent s) := by
  simp [step, nextMover, hev, hdelay]

/-- An input that neither asserts reset nor leaves the window. -/
def StaysInWindow (e : Event) : Prop :=
  e ≠ .assertReset ∧ ∀ width off v, e = .read width off ∨ e = .write width off v → 0 ≤ off ∧ off < 0x400

/-- Outside reset an input that stays in the window is taken. -/
theorem takeEvent_next_of_staysInWindow {e : Event} {s : State} (hline : s.resetLine = false) (he : StaysInWindow e) :
    ∃ t, takeEvent e s = .next t := by
  rcases takeEvent_ends e s with h | ⟨hr, -⟩ | ⟨width, off, v, hacc, hout, -⟩
  · exact h
  · simp [hline] at hr
  · have hin := he.2 width off v hacc
    have := (inWindow_eq_false_iff off).1 hout
    omega

/-- An input taken while a command is pending brings its completion one step nearer. -/
theorem step_toward_completion {s : State} (hI : s.Inv) (hbusy : s.busy = true) (hin : ∀ e ∈ s.events, StaysInWindow e)
    (hdue : ¬ (s.events = [] ∨ s.delay = 0)) :
    ∃ t, step s = .next t ∧ t.busy = true ∧ t.delay = s.delay - 1 ∧ ∀ e ∈ t.events, StaysInWindow e := by
  obtain ⟨hne, hdelay⟩ := not_or.1 hdue
  obtain ⟨e, rest, hev⟩ := List.exists_cons_of_ne_nil hne
  have he : StaysInWindow e := hin e (by simp [hev])
  have hline : (dropEvent s).resetLine = false := hI.resetLine_of_busy hbusy
  obtain ⟨t, ht⟩ := takeEvent_next_of_staysInWindow hline he
  obtain ⟨_, _, _, events, _, _, rfl, hsub⟩ := takeEvent_of_busy (s := dropEvent s) hbusy hline he.1 ht
  refine ⟨_, (step_of_not_due hev hdelay).trans ht, hbusy, rfl, fun e' he' => ?_⟩
  rcases hsub e' he' with rfl | hrest
  · exact he
  · exact hin e' (List.mem_of_mem_tail hrest)

/-- A step at which the pending command is due ends its lifecycle (R118). -/
theorem step_completes_of_due {s : State} (hI : s.Inv) (hbusy : s.busy = true) (hdue : s.events = [] ∨ s.delay = 0) :
    ∃ t, step s = .next t ∧ t.busy = false ∧ t.done = true ∧ t.pend = none := by
  obtain ⟨i, hpend, hadm⟩ := hI.exists_pending hbusy
  exact ⟨_, (step_of_due hbusy hdue).trans (engineStep_of_pending hbusy hpend hadm), rfl, rfl, rfl⟩

/-- Settles O59, by induction on the delay: a command is due, or an input brings it one step nearer. -/
theorem everyAcceptedCommandCompletes : Obligations.EveryAcceptedCommandCompletes := by
  intro s hI hbusy (hin : ∀ e ∈ s.events, StaysInWindow e)
  induction hn : s.delay generalizing s with
  | zero =>
    obtain ⟨t, hstep, ht⟩ := step_completes_of_due hI hbusy (.inr hn)
    exact ⟨1, t, le_rfl, run_succ_of_step hstep 0, ht⟩
  | succ n ih =>
    by_cases hdue : s.events = [] ∨ s.delay = 0
    · obtain ⟨t, hstep, ht⟩ := step_completes_of_due hI hbusy hdue
      exact ⟨1, t, by omega, run_succ_of_step hstep 0, ht⟩
    · obtain ⟨t, hstep, htbusy, htdelay, htin⟩ := step_toward_completion hI hbusy hin hdue
      obtain ⟨k, u, hk, hrun, hu⟩ := ih t (invariantKeptByEveryStep s t hI hstep) htbusy htin (by omega)
      exact ⟨k + 1, u, by omega, (run_succ_of_step hstep k).trans hrun, hu⟩

/-! ### WAIT (30_encoding.md R55, 70_reset_and_hazards.md R123, R124) -/

/-- The same registers and inputs, with other responses received and another delay: what a turn of WAIT changes. -/
def State.withBus (s : State) (responses : List BusResponse) (delay : Nat) : State := { s with responses, delay }

/-- A command's writes neither read nor change what the Host has received and the delay. -/
theorem writesOf_withBus (i : Instr) (s : State) (responses : List BusResponse) (delay : Nat) :
    writesOf i (s.withBus responses delay) = (writesOf i s).withBus responses delay := by
  cases i with
  | final n =>
    simp only [writesOf]
    rw [foldl_absorbBlock_frame, foldl_absorbBlock_frame _ s, foldl_absorbBlock_a, foldl_absorbBlock_a]
    rfl
  | nop | init | absorb | permute | round _ | theta | rho | pi | chi | iota _ | rcgen _ => rfl

@[simp] theorem foldl_absorbBlock_events (Ps : List Block) (s : State) : (Ps.foldl absorbBlock s).events = s.events := by
  rw [foldl_absorbBlock_frame]

/-- No command takes an input. -/
@[simp] theorem writesOf_events (i : Instr) (s : State) : (writesOf i s).events = s.events := by
  cases i <;> simp [writesOf]

/-- A turn of WAIT before the completion is due reads STATUS and brings the completion one step nearer. -/
theorem step_wait_of_not_due {s : State} {rest : List Event} (hbusy : s.busy = true) (hline : s.resetLine = false)
    (hev : s.events = .wait :: rest) (hdelay : s.delay ≠ 0) :
    step s = .next (s.withBus (.data s.status :: s.responses) (s.delay - 1)) := by
  have hturn : Event.wait :: s.events.tail = s.events := by rw [hev]; rfl
  rw [step_of_not_due hev hdelay, takeEvent_wait (s := dropEvent s) hline, dropEvent_busy, if_pos hbusy,
    State.withBus, ← hturn]
  rfl

/-- On an idle engine the turn of WAIT is its last (R55). -/
theorem step_wait_of_idle {s : State} {rest : List Event} (hbusy : s.busy = false) (hline : s.resetLine = false)
    (hev : s.events = .wait :: rest) : step s = .next (respond (.data s.status) (dropEvent s)) := by
  rw [step_of_idle hbusy hev, takeEvent_wait (s := dropEvent s) hline, dropEvent_busy, if_neg (by simp [hbusy])]
  rfl

/-- The turns of WAIT go on until the completion is due. -/
theorem run_wait {s : State} {rest : List Event} (hbusy : s.busy = true) (hline : s.resetLine = false)
    (hev : s.events = .wait :: rest) :
    ∃ responses, ∀ k, Sys2Proof.core.run (s.delay + k) s = Sys2Proof.core.run k (s.withBus responses 0) := by
  induction hn : s.delay generalizing s with
  | zero =>
    refine ⟨s.responses, fun k => ?_⟩
    rw [zero_add, State.withBus, ← hn]
  | succ n ih =>
    have hstep := step_wait_of_not_due hbusy hline hev (by omega)
    obtain ⟨responses, hrun⟩ := ih (s := s.withBus (.data s.status :: s.responses) (s.delay - 1)) hbusy hline hev
      (by simp [State.withBus, hn])
    refine ⟨responses, fun k => ?_⟩
    rw [Nat.add_right_comm, run_succ_of_step hstep]
    exact hrun k

/-- Settles O60: WAIT turns until the command is due, the command completes, and the last turn reads BUSY = 0. -/
theorem waitMakesTimingInvisible : Obligations.WaitMakesTimingInvisible := by
  intro s u rest hI hbusy hev hu
  have hline := hI.resetLine_of_busy hbusy
  obtain ⟨i, hpend, hadm⟩ := hI.exists_pending hbusy
  obtain rfl : complete (writesOf i s) = u := by simpa [engineStep_of_pending hbusy hpend hadm] using hu
  obtain ⟨responses, hrun⟩ := run_wait hbusy hline hev
  have hcomplete : step (s.withBus responses 0) = .next ((complete (writesOf i s)).withBus responses 0) := by
    rw [step_of_due (s := s.withBus responses 0) hbusy (.inr rfl),
      engineStep_of_pending (s := s.withBus responses 0) hbusy hpend ((admission_congr i rfl).trans hadm), writesOf_withBus]
    rfl
  have hlast := step_wait_of_idle (s := (complete (writesOf i s)).withBus responses 0) rfl
    ((writesOf_resetLine i s).trans hline) ((writesOf_events i s).trans hev)
  exact ⟨s.delay + 2, _, le_rfl,
    ((hrun 2).trans (run_succ_of_step hcomplete 1)).trans (run_succ_of_step hlast 0),
    congrArg List.tail ((writesOf_events i s).trans hev), rfl, rfl⟩

end Sys2Proof.Machine
